-- ==== Sys2Proof/Word.lean ====
section
/-! DEFINITION. The word types of the control-register file (R5, R9) and the two shapes in which something can reach
the block from outside (R90, R91, R103). -/

namespace Sys2Proof

/-- An unsigned 32-bit word: storage, `value` and read data (R5 `WORD_W`, R9). -/
abbrev Word := BitVec 32

/-- One byte lane of a word (R9). -/
abbrev Byte := BitVec 8

/-- The canonical 64-bit request word `REQ64` (R91). -/
abbrev Req := BitVec 64

/-- What can arrive at the block: a request word on the request interface, or the sideband event `rst` from the reset
source, which is not a request and has no `REQ64` encoding (R90, R103, R176). A sideband at 0 is no event, so it is no
`Input`. -/
inductive Input where
  | request (w : Req)
  | rst
deriving DecidableEq, Repr

end Sys2Proof
end

