-- ==== Sys2Proof/Syntax.lean ====
section
/-! DEFINITION. The operations of the block (R90), one constructor for each row of spec/opcode_table.json. They take the
place of instructions: the block executes no instruction stream (R1). -/

namespace Sys2Proof

/-- An operation with its abstract operands. `index` and `mask` are natural numbers, as in the abstract operations of
R90; the 22 and 8 bits of `REQ64` are the width of the canonical word only (R93, R94) and stand in `Instr.WellFormed`. -/
inductive Instr where
  /-- READ, `Read(index) -> u32` (R122). -/
  | read (index : Nat)
  /-- WRITE, `Write(index, value, mask)` (R123). -/
  | write (index : Nat) (value : Word) (mask : Nat)
  /-- NAME, `GetName(index)` (R170). -/
  | name (index : Nat)
  /-- RSVD: the reserved selector `op = 0b11`, which selects no operation. It IS the decoder's verdict INVALID (R98);
  all 62 other bits are ignored (R92), so it has no operand. -/
  | rsvd
  /-- RESET, the sideband event of the reset source (R176). -/
  | reset
deriving DecidableEq, Repr

end Sys2Proof
end

