-- ==== Sys2Proof/WellFormed.lean ====
section
/-! DEFINITION. Which operations the canonical request word can carry (R91 to R95). The block itself accepts any natural
number as `index` or `mask` (R93, R94); this is the check of the transport only. -/

namespace Sys2Proof

/-- `index` fits the 22-bit field (R94). -/
abbrev IndexFits (index : Nat) : Prop := index < 2 ^ 22

/-- `mask` fits the 8-bit field `mask8` (R93). -/
abbrev MaskFits (mask : Nat) : Prop := mask < 2 ^ 8

/-- The operation fits its encoding. -/
def Instr.WellFormed : Instr → Prop
  | .read index => IndexFits index
  | .write index _ mask => IndexFits index ∧ MaskFits mask
  | .name index => IndexFits index
  | .rsvd => True
  | .reset => True

/-- The same check as a Bool, to run. -/
def Instr.wellFormed : Instr → Bool
  | .read index => decide (IndexFits index)
  | .write index _ mask => decide (IndexFits index) && decide (MaskFits mask)
  | .name index => decide (IndexFits index)
  | .rsvd => true
  | .reset => true

end Sys2Proof
end

