-- ==== Sys2Proof/Decode.lean ====
section
/-! DEFINITION. The decoder of a request word and of the reset sideband (R91 to R100, R103), total on any bits and
rejecting by name, and after it the encoder, written from the same tables. -/

namespace Sys2Proof

/-- Bits 63:62 of `REQ64`, the operation selector (R91, R92). -/
def opField (w : Req) : BitVec 2 := w.extractLsb' 62 2

/-- Bits 61:54 of `REQ64`, the `mask` operand as carried (R91, R93). -/
def maskField (w : Req) : BitVec 8 := w.extractLsb' 54 8

/-- Bits 53:32 of `REQ64`, the unsigned `index` operand (R91, R94). -/
def indexField (w : Req) : BitVec 22 := w.extractLsb' 32 22

/-- Bits 31:0 of `REQ64`, the `value` operand, used as is (R91, R95). -/
def valueField (w : Req) : Word := w.extractLsb' 0 32

/-- Decode one request word: a decoder reads `op` and is done (R92, R100). READ and NAME ignore `mask8` and `value`
(R92); `op = 0b11` gives `.rsvd`, the verdict INVALID (R98). -/
def decodeReq (w : Req) : Instr :=
  match (opField w).toNat with
  | 0 => .read (indexField w).toNat
  | 1 => .write (indexField w).toNat (valueField w) (maskField w).toNat
  | 2 => .name (indexField w).toNat
  | _ => .rsvd

/-- Decode whatever arrived: a request word by its selector, the sideband event as RESET (R103). -/
def Input.decode : Input → Instr
  | .request w => decodeReq w
  | .rst => .reset

/-- The decoder's verdict on a request word (R98). -/
inductive Verdict where
  | valid
  | invalid
deriving DecidableEq, Repr

/-- R98: INVALID for every `REQ` with `REQ[63:62] = 0b11`. -/
def verdictOf (w : Req) : Verdict :=
  match decodeReq w with
  | .rsvd => .invalid
  | .read _ => .valid
  | .write _ _ _ => .valid
  | .name _ => .valid
  | .reset => .valid

/-- Why a string of bits is no input of the block at all. -/
inductive Reject where
  /-- A length other than the 64 bits of `REQ64` (R100: one request length) or the one bit of the sideband, in whole
  bytes. -/
  | wrongLength (nbits : Nat)
  /-- A number that does not fit the given length. -/
  | tooWide
  /-- The sideband signal `rst` at 0: no reset event (R103). -/
  | rstLow
deriving DecidableEq, Repr

/-- The input that `nbits` bits of value `w` are: 64 bits are a request word; one bit (or the one byte that carries it)
is the reset sideband, which is an event only at 1 (R91, R100, R103). -/
def inputOfBits (nbits w : Nat) : Except Reject Input :=
  if nbits = 64 then
    if w < 2 ^ 64 then .ok (.request (BitVec.ofNat 64 w)) else .error .tooWide
  else if nbits = 1 ∨ nbits = 8 then
    if w = 1 then .ok .rst else if w = 0 then .error .rstLow else .error .tooWide
  else .error (.wrongLength nbits)

/-- Decoding of any bits, rejecting by name. -/
def decodeBits (nbits w : Nat) : Except Reject Instr :=
  match inputOfBits nbits w with
  | .ok x => .ok x.decode
  | .error r => .error r

/-- The instruction the decoder reads from a row of spec/opcode_table.json whose bits are `w`. A request is one word
(R91), so there is no byte order between the table's numbering and the block's. -/
def decodeTableWord (nbits w : Nat) : Option Instr :=
  match decodeBits nbits w with
  | .ok i => some i
  | .error _ => none

/-- The selector of R92 for each operation; RESET has none (R103). -/
def Instr.selector : Instr → Option (BitVec 2)
  | .read _ => some 0b00#2
  | .write _ _ _ => some 0b01#2
  | .name _ => some 0b10#2
  | .rsvd => some 0b11#2
  | .reset => none

/-- R91: the four fields side by side, `op` most significant. -/
def packReq (op : BitVec 2) (mask8 : BitVec 8) (index : BitVec 22) (value : Word) : Req :=
  op ++ mask8 ++ index ++ value

/-- Encode an operation: ignored fields are sent as zeros, and RESET is the sideband event (R91, R92, R103).
DESIGN CHOICE (log entry 12): the spec does not say how an operation that does not fit its fields goes into the canonical word.
Here an index keeps its low 22 bits and a mask its low 8, so WRITE at 0x400010 encodes as WRITE at 0x010; such an operation is
not `Instr.WellFormed`, and only `exec` gives it its meaning. -/
def encode : Instr → Input
  | .read index => .request (packReq 0b00#2 0#8 (BitVec.ofNat 22 index) 0#32)
  | .write index value mask =>
      .request (packReq 0b01#2 (BitVec.ofNat 8 mask) (BitVec.ofNat 22 index) value)
  | .name index => .request (packReq 0b10#2 0#8 (BitVec.ofNat 22 index) 0#32)
  | .rsvd => .request (packReq 0b11#2 0#8 0#22 0#32)
  | .reset => .rst

end Sys2Proof
end

