-- ==== Sys2Proof/Config.lean ====
section
/-! DEFINITION. The implementation parameters of R5 that give the block its shape, fixed for the block and never changing
while it runs. The two that are values, the sentinel and the reset image, stand in Machine/Parameters.lean. -/

namespace Sys2Proof.Config

/-- `NUM_REGS`: the store has exactly 0x300 words (R5, R20). -/
abbrev numRegs : Nat := 0x300

/-- `SIZE_BYTES = NUM_REGS × 4` (R5, R22). -/
abbrev sizeBytes : Nat := numRegs * 4

/-- The platform's `BASE` in words. It is an OPEN parameter (R61, decision D9): a natural number, multiple of 4, with no
value given, so it has no body here and no proof can see a value of it (log entry 5). -/
opaque baseWords : Nat

/-- `BASE`, a multiple of 4 (R61; "Open parameters" of 92_eei_decisions.md). -/
def base : Nat := 4 * baseWords

end Sys2Proof.Config
end

