-- ==== Sys2Proof/Machine/Operands.lean ====
section
/-! DEFINITION. Operand assembly and the data operations, complete (R96, R126): the 4-bit truncation of the mask, the
MaskExpander (R120), the combine rule (R121) and the byte lanes of a word (R9, R62). -/

namespace Sys2Proof.Machine

/-- Byte lane `k` of a word, bits `8k+7:8k`; lane 0 is the low byte (R9, R62). -/
def lane (w : Word) (k : Nat) : Byte := w.extractLsb' (8 * k) 8

/-- `m4 = mask & 0xF` (R96); bits above bit 3 are ignored (R93). -/
def maskNibble (mask : Nat) : Nat := mask &&& 0xF

/-- The expansion table as R120 prints it, row by row.
Which lane mask bits 1 to 3 govern is the spec's decision D7 (log entry 6). -/
def expandTable : List Word :=
  [0x00000000, 0x000000FF, 0x0000FF00, 0x0000FFFF, 0x00FF0000, 0x00FF00FF, 0x00FFFF00, 0x00FFFFFF,
   0xFF000000, 0xFF0000FF, 0xFF00FF00, 0xFF00FFFF, 0xFFFF0000, 0xFFFF00FF, 0xFFFFFF00, 0xFFFFFFFF]

/-- `EXPAND(m)`: "pure immutable data — implement as a constant lookup table" (R120). -/
def expand (mask : Nat) : Word := expandTable.getD (maskNibble mask) 0

/-- `COMBINE(old, v, e) = (old & ~e) | (v & e)` (R121). -/
def combine (old v e : Word) : Word := (old &&& ~~~e) ||| (v &&& e)

end Sys2Proof.Machine
end

