-- ==== Sys2Proof/Machine/Flags.lean ====
section
/-! DEFINITION. Flags: none. "There are no status flags, no condition codes, no predicate registers" (R37), every
operation rule says "Flags: none" (R120 to R123, R170, R176), and the arithmetic of the block has no carry and no
overflow (R126). So there is no flag computation to define; the file stands so that a reader looking for one finds this. -/
end

