-- ==== Sys2Proof/Machine/Parameters.lean ====
section
/-! DEFINITION. The implementation parameters of R5 that are values of words. -/

namespace Sys2Proof.Config

/-- `OOR_READ`: the read data for an out-of-range index (R5, R67, R122). -/
def oorRead : Word := 0x00000000#32

/-- `RESET_IMAGE`: the word at index `i` after creation and after RESET.
DESIGN CHOICE (log entry 1): the source says only "a hardware-defined default (commonly zero)"; the spec's decision D3
(R40, R220) fixes zero for every word, and so does the model. -/
def resetImage (_i : Nat) : Word := 0x00000000#32

end Sys2Proof.Config
end

