-- ==== Sys2Proof/Machine/State.lean ====
section
/-! DEFINITION. The state of the machine: the block's own two items (R42), and the two ends of its request interface
(R8, R69, R97), which a step function needs in order to have something to perform and somewhere to answer. -/

namespace Sys2Proof.Machine

/-- The three kinds of event the dispatcher forwards (R38, R97). -/
inductive EventKind where
  | irq
  | draw
  | drawIndexed
deriving DecidableEq, Repr

/-- The external consumers of events (R7, R97, R150). They are outside the block. -/
inductive Collaborator where
  | interruptController
  | commandProcessor
deriving DecidableEq, Repr

/-- The store of 0x300 words (R20, R21), or a snapshot of it (R38), in ONE canonical form (`Store.wf`): pairs (index, word),
indices strictly rising and below 0x300, and no pair whose word is what an unlisted index holds. An unlisted index holds
`Config.resetImage`, so every one of the 0x300 words always has a value, and equal stores are equal data. The cell is the
spec's own addressable unit, a 32-bit word (R60). -/
abbrev Store := List (Nat × Word)

/-- The canonical form. -/
abbrev Store.wf (st : Store) : Prop :=
  st.Pairwise (fun a b => a.1 < b.1) ∧ ∀ c ∈ st, c.1 < Config.numRegs ∧ c.2 ≠ Config.resetImage c.1

/-- One forwarded event: its kind and all 0x300 words at the instant of dispatch (R38, R154). -/
structure Event where
  kind : EventKind
  snap : Store
deriving DecidableEq, Repr

/-- What the block answers a requester (R97). WRITE and RESET answer nothing. -/
inductive Response where
  /-- `RDATA`: one 32-bit word, from READ. -/
  | rdata (v : Word)
  /-- `NAMEID`: one entry of the name table, from NAME. -/
  | nameId (s : String)
deriving DecidableEq, Repr

/-- The block raises no exception and has no fault outcome for any operation (R190): nothing raises a fault, and the
type has no constructor. Safe: no behaviour is cut off by it. -/
inductive Fault where
deriving DecidableEq, Repr

/-- Why a step may have no next state. -/
inductive Refusal where
  /-- Raised by an arm of `exec` whose operation has no meaning yet. No arm raises it in this model. Safe. -/
  | notModelled (mnemonic : String)
  /-- Raised by RSVD, a request word with `op = 0b11`: "A model should refuse it by name rather than give it a meaning"
  (R98, R190; 93_implementation_defined.md U10). Safe: it errs toward unprovable. -/
  | reservedSelector
deriving DecidableEq, Repr

/-- The whole state. `regs` and `out` are the block's (R42); `inputs` and `responses` are the interface's and stand
outside the block's own state (R36), so no operation reads them. -/
structure State where
  /-- The store (R20, R42). -/
  regs : Store
  /-- The output trace: every event forwarded so far, oldest first, append-only (R38, R42). -/
  out : List Event
  /-- The data answered so far to READ and NAME, in request order (R8, R97). -/
  responses : List Response
  /-- What has been issued and not yet performed, in the order of issue (R69, R230). -/
  inputs : List Input
deriving DecidableEq, Repr

/-- The machine at creation, which is the reset state with an empty trace (R41, R42, R221). No request has been issued. -/
def State.reset : State := { regs := [], out := [], responses := [], inputs := [] }

end Sys2Proof.Machine
end

