-- ==== Sys2Proof/Machine/Ops.lean ====
section
/-! DEFINITION. The named operations over the state that the meanings share: the one path to the words of the store, the
response, the snapshot, and the dispatch of an event, which is the block's only analogue of taking an exception (R196). -/

namespace Sys2Proof.Machine

/-- The word at index `i`: the listed one, or the reset image where none is listed. -/
def Store.word : Store → Nat → Word
  | [], i => Config.resetImage i
  | c :: rest, i => if c.1 = i then c.2 else Store.word rest i

/-- Drop what is listed for index `i`. -/
def Store.erase (st : Store) (i : Nat) : Store := st.filter (fun c => c.1 != i)

/-- List `(i, v)` before the first larger index. -/
def Store.insert : Store → Nat → Word → Store
  | [], i, v => [(i, v)]
  | c :: rest, i, v => if c.1 < i then c :: Store.insert rest i v else (i, v) :: c :: rest

/-- `regs[i] <- v` (R10). Writing what an unlisted index holds removes the entry, so the form stays canonical. An index
`>= 0x300` names no word, and nothing is stored (R67). -/
def Store.set (st : Store) (i : Nat) (v : Word) : Store :=
  if i < Config.numRegs then
    if v = Config.resetImage i then st.erase i else (st.erase i).insert i v
  else st

/-- The indexed read of the store: `regs[i]` in range, the sentinel out of range (R67, R122). Indices never wrap. -/
def Store.read (st : Store) (i : Nat) : Word :=
  if i < Config.numRegs then st.word i else Config.oorRead

/-- `regs[i] <- COMBINE(regs[i], value, EXPAND(mask & 0xF))`, one read-modify-write of one word (R65, R74, R123). -/
def Store.writeMasked (st : Store) (i : Nat) (value : Word) (mask : Nat) : Store :=
  st.set i (combine (st.read i) value (expand mask))

/-- `RESET_IMAGE` as a store: nothing is listed, so every word is the reset image (R40, R220). -/
def Store.image : Store := []

/-- `respond(r)`: the data returned for this request (R10, R97). -/
def State.respond (s : State) (r : Response) : State := { s with responses := s.responses ++ [r] }

/-- `snapshot()`: all 0x300 words at this instant (R10). -/
def State.snapshot (s : State) : Store := s.regs

/-- `emit(kind, snapshot())`: append one event to the output trace (R10, R38). -/
def State.emit (s : State) (k : EventKind) : State := { s with out := s.out ++ [⟨k, s.snapshot⟩] }

/-- The numeric code the spec gives each kind (R97). -/
def EventKind.code : EventKind → Nat
  | .irq => 0
  | .draw => 1
  | .drawIndexed => 2

/-- Who receives each kind (R97, R150): the fixed collaborator, with no vector table (R196). -/
def EventKind.receiver : EventKind → Collaborator
  | .irq => .interruptController
  | .draw => .commandProcessor
  | .drawIndexed => .commandProcessor

/-- The trigger index that raises each kind (R35, R150). -/
def EventKind.triggerIndex : EventKind → Nat
  | .irq => 0x010
  | .draw => 0x22E
  | .drawIndexed => 0x22F

/-- The trigger map: `kind_of`, complete and constant (R150). No other index dispatches anything. -/
def kindOf (index : Nat) : Option EventKind :=
  if index = EventKind.irq.triggerIndex then some .irq
  else if index = EventKind.draw.triggerIndex then some .draw
  else if index = EventKind.drawIndexed.triggerIndex then some .drawIndexed
  else none

/-- The dispatch of a WRITE at `index`, AFTER its own update of the store (R123, R154): at a trigger index exactly one
event with the store as it stands now; elsewhere nothing (R156, R157). It tests the index only, neither value nor mask
(R155, decision D10; log entry 3). Nothing is saved, no mode changes, nothing returns from it (R196, R197). -/
def State.dispatch (s : State) (index : Nat) : State :=
  match kindOf index with
  | some k => s.emit k
  | none => s

/-- The events a collaborator has been handed, in order (R150, R160). -/
def State.deliveredTo (s : State) (c : Collaborator) : List Event :=
  s.out.filter (fun e => e.kind.receiver = c)

/-- The store update of a WRITE (R123). -/
def State.store (s : State) (index : Nat) (value : Word) (mask : Nat) : State :=
  { s with regs := s.regs.writeMasked index value mask }

/-- Take the oldest issued input, if there is one (R69: the order of issue). -/
def State.takeInput (s : State) : Option (Input × State) :=
  match s.inputs with
  | [] => none
  | x :: rest => some (x, { s with inputs := rest })

end Sys2Proof.Machine
end

