-- ==== Sys2Proof/Machine/Access.lean ====
section
/-! DEFINITION. The access operations READ and WRITE (40_access_ops.md). -/

namespace Sys2Proof.Machine

/-- READ (R122): respond the stored word, or the sentinel for an index out of range. Nothing else changes, at trigger
indices as at any other (R66, R158). -/
def execRead (index : Nat) (s : State) : Host.Outcome State Fault Refusal :=
  .next (s.respond (.rdata (s.regs.read index)))

/-- WRITE (R123): in range, the masked update of one word and then, in the same step, the dispatch; out of range,
nothing at all (R67, R159). No response. -/
def execWrite (index : Nat) (value : Word) (mask : Nat) (s : State) : Host.Outcome State Fault Refusal :=
  if index < Config.numRegs then .next ((s.store index value mask).dispatch index) else .next s

end Sys2Proof.Machine
end

