-- ==== Sys2Proof/Machine/Diagnostics.lean ====
section
/-! DEFINITION. NAME, the diagnostic name lookup (R170, R171). The strings are the spec's decision D16 (log entry 9). -/

namespace Sys2Proof.Machine

/-- The placeholder for every index the table does not list (R171). -/
def placeholder : String := "reserved"

/-- `NAME_TABLE` (R171): the low region and the Rasterizer block. -/
def nameTableLow : List (Nat × String) :=
  [(0x010, "interrupt_trigger"), (0x040, "cull_mode"), (0x041, "viewport_size_x"),
   (0x043, "viewport_size_y"), (0x04D, "viewport_depth_range"), (0x04E, "viewport_depth_near_plane"),
   (0x050, "vs_output_attributes[0]"), (0x051, "vs_output_attributes[1]"), (0x065, "scissor_test"),
   (0x068, "viewport_corner"), (0x06D, "depthmap_enable")]

/-- `NAME_TABLE` (R171): the Texturing block. -/
def nameTableTexturing : List (Nat × String) :=
  [(0x080, "main_config"), (0x081, "texture0"), (0x08E, "texture0_format"),
   (0x08F, "fragment_lighting_enable"), (0x091, "texture1"), (0x096, "texture1_format"), (0x099, "texture2"),
   (0x09E, "texture2_format"), (0x0A8, "proctex"), (0x0A9, "proctex_noise_u"), (0x0AA, "proctex_noise_v"),
   (0x0AB, "proctex_noise_frequency"), (0x0AC, "proctex_lut"), (0x0AD, "proctex_lut_offset"),
   (0x0AF, "proctex_lut_config"), (0x0C0, "tev_stage0"), (0x0C8, "tev_stage1"), (0x0D0, "tev_stage2"),
   (0x0D8, "tev_stage3"), (0x0E0, "tev_combiner_buffer_input"), (0x0E1, "fog_color"),
   (0x0E6, "fog_lut_offset"), (0x0E8, "fog_lut_data"), (0x0F0, "tev_stage4"), (0x0F8, "tev_stage5"),
   (0x0FD, "tev_combiner_buffer_color")]

/-- `NAME_TABLE` (R171): the blocks from 0x100 on. -/
def nameTableRest : List (Nat × String) :=
  [(0x100, "output_merger"), (0x110, "framebuffer"), (0x140, "lighting"), (0x200, "vertex_attributes"),
   (0x227, "index_array"), (0x228, "num_vertices"), (0x22A, "vertex_offset"), (0x22E, "draw_trigger"),
   (0x22F, "indexed_draw_trigger"), (0x232, "vs_default_attributes_setup"), (0x238, "command_buffer"),
   (0x245, "gpu_mode"), (0x25E, "triangle_topology"), (0x25F, "restart_primitive"),
   (0x280, "geometry_shader"), (0x2B0, "vertex_shader")]

/-- `NAME_TABLE`, the 53 entries in index order (R171). Word 0x0E0 has the first of its two names. -/
def nameTable : List (Nat × String) := nameTableLow ++ nameTableTexturing ++ nameTableRest

/-- `NAME_TABLE(index)`, total on every natural number: an index that is not listed, out of range or inside a field after
its first word included, gives the placeholder (R170, R171). -/
def nameOf (index : Nat) : String :=
  match nameTable.find? (fun e => e.1 = index) with
  | some e => e.2
  | none => placeholder

/-- NAME (R170): respond the name. A pure lookup; the store and the trace are neither read nor changed. -/
def execName (index : Nat) (s : State) : Host.Outcome State Fault Refusal :=
  .next (s.respond (.nameId (nameOf index)))

end Sys2Proof.Machine
end

