-- ==== Sys2Proof/Machine/Lifecycle.lean ====
section
/-! DEFINITION. RESET (R176, R220 to R222) and the reserved selector RSVD (R98). -/

namespace Sys2Proof.Machine

/-- RESET (R176): every word takes its reset image. Nothing is emitted, the trace stays as it is (R222), and so does what
the requester has been answered. -/
def execReset (s : State) : Host.Outcome State Fault Refusal :=
  .next { s with regs := Store.image }

/-- RSVD (R98): refused by name, with no state change and no response. -/
def execRsvd (_s : State) : Host.Outcome State Fault Refusal :=
  .refused .reservedSelector

end Sys2Proof.Machine
end

