-- ==== Sys2Proof/Machine/Dispatch.lean ====
section
/-! DEFINITION. One arm for each operation. -/

namespace Sys2Proof.Machine

def exec (i : Instr) (s : State) : Host.Outcome State Fault Refusal :=
  match i with
  | .read index => Sys2Proof.Machine.execRead index s
  | .write index value mask => Sys2Proof.Machine.execWrite index value mask s
  | .name index => Sys2Proof.Machine.execName index s
  | .rsvd => Sys2Proof.Machine.execRsvd s
  | .reset => Sys2Proof.Machine.execReset s

end Sys2Proof.Machine
end

