-- ==== Sys2Proof/Machine/Step.lean ====
section
/-! DEFINITION. One step: the oldest issued input is performed completely (R6, R69). -/

namespace Sys2Proof.Machine

/-- Perform the oldest issued input as one indivisible step (R6, R69). With nothing issued the block is idle: it has no
step of its own and nothing changes (log entry 4). -/
def step (s : State) : Host.Outcome State Fault Refusal :=
  match s.takeInput with
  | none => .next s
  | some (x, t) => exec x.decode t

/-- Put an input at the interface, before everything that is waiting, so that the very next step performs it. -/
def State.present (s : State) (x : Input) : State := { s with inputs := x :: s.inputs }

/-- `s` with the instruction of `nbits` bits and value `w` presented as the next input: there is no program counter and no
instruction memory (R36), the requester drives the block (R7). Bits that are no input leave `s` as it is. -/
def State.withFetchWord (s : State) (nbits w : Nat) : State :=
  match inputOfBits nbits w with
  | .ok x => s.present x
  | .error _ => s

end Sys2Proof.Machine
end

