-- ==== Sys2Proof/Machine/Layout.lean ====
section
/-! DEFINITION. The layout contract: the regions of the index space (R24), the 51 documented field names and the word
offset each is bound to (R25 to R31, R172). All of it is constant (R42, R173); no operation of the block behaves
differently from one region or field to another (R24, R32). -/

namespace Sys2Proof.Machine

/-- The regions of R24. -/
inductive Region where
  | low
  | rasterizer
  | texturing
  | framebuffer
  | lighting
  | pipeline
  | geometryShader
  | vertexShader
  | high
deriving DecidableEq, Repr

/-- All regions in index order. -/
def Region.all : List Region :=
  [.low, .rasterizer, .texturing, .framebuffer, .lighting, .pipeline, .geometryShader, .vertexShader, .high]

/-- First word of a region: for the seven named sub-blocks the base of R24 and R172, item 3. -/
def Region.first : Region → Nat
  | .low => 0x000
  | .rasterizer => 0x040
  | .texturing => 0x080
  | .framebuffer => 0x100
  | .lighting => 0x140
  | .pipeline => 0x200
  | .geometryShader => 0x280
  | .vertexShader => 0x2B0
  | .high => 0x2E0

/-- Last word of a region. The source gives no end; this is the spec's decision D13 (R24; log entry 8). -/
def Region.last : Region → Nat
  | .low => 0x03F
  | .rasterizer => 0x07F
  | .texturing => 0x0FF
  | .framebuffer => 0x13F
  | .lighting => 0x1FF
  | .pipeline => 0x27F
  | .geometryShader => 0x2AF
  | .vertexShader => 0x2DF
  | .high => 0x2FF

/-- The region an index lies in (R24); none for an index out of range. -/
def regionOf (index : Nat) : Option Region :=
  Region.all.find? (fun r => decide (r.first ≤ index ∧ index ≤ r.last))

/-- The documented fields, in index order (R25 to R30). The Lighting block and the two shader units have none (R29, R31). -/
inductive Field where
  | interruptTrigger
  | cullMode
  | viewportSizeX
  | viewportSizeY
  | viewportDepthRange
  | viewportDepthNearPlane
  | vsOutputAttributes0
  | vsOutputAttributes1
  | scissorTest
  | viewportCorner
  | depthmapEnable
  | mainConfig
  | texture0
  | texture0Format
  | fragmentLightingEnable
  | texture1
  | texture1Format
  | texture2
  | texture2Format
  | proctex
  | proctexNoiseU
  | proctexNoiseV
  | proctexNoiseFrequency
  | proctexLut
  | proctexLutOffset
  | proctexLutConfig
  | tevStage0
  | tevStage1
  | tevStage2
  | tevStage3
  | tevCombinerBufferInput
  | fogMode
  | fogColor
  | fogLutOffset
  | fogLutData
  | tevStage4
  | tevStage5
  | tevCombinerBufferColor
  | outputMerger
  | framebuffer
  | vertexAttributes
  | indexArray
  | numVertices
  | vertexOffset
  | drawTrigger
  | indexedDrawTrigger
  | vsDefaultAttributesSetup
  | commandBuffer
  | gpuMode
  | triangleTopology
  | restartPrimitive
deriving DecidableEq, Repr

/-- All fields, region by region. -/
def Field.all : List Field :=
  [.interruptTrigger] ++
  [.cullMode, .viewportSizeX, .viewportSizeY, .viewportDepthRange, .viewportDepthNearPlane,
   .vsOutputAttributes0, .vsOutputAttributes1, .scissorTest, .viewportCorner, .depthmapEnable] ++
  [.mainConfig, .texture0, .texture0Format, .fragmentLightingEnable, .texture1, .texture1Format,
   .texture2, .texture2Format, .proctex, .proctexNoiseU, .proctexNoiseV, .proctexNoiseFrequency,
   .proctexLut, .proctexLutOffset, .proctexLutConfig, .tevStage0, .tevStage1, .tevStage2,
   .tevStage3, .tevCombinerBufferInput, .fogMode, .fogColor, .fogLutOffset, .fogLutData,
   .tevStage4, .tevStage5, .tevCombinerBufferColor] ++
  [.outputMerger, .framebuffer] ++
  [.vertexAttributes, .indexArray, .numVertices, .vertexOffset, .drawTrigger, .indexedDrawTrigger,
   .vsDefaultAttributesSetup, .commandBuffer, .gpuMode, .triangleTopology, .restartPrimitive]

/-- The word offset each name is bound to (R25 to R30): "this must hold bit-for-bit in any reimplementation". Two names
share word 0x0E0 (R33, 90_conflicts.md C2). -/
def Field.offset : Field → Nat
  | .interruptTrigger => 0x010
  | .cullMode => 0x040
  | .viewportSizeX => 0x041
  | .viewportSizeY => 0x043
  | .viewportDepthRange => 0x04D
  | .viewportDepthNearPlane => 0x04E
  | .vsOutputAttributes0 => 0x050
  | .vsOutputAttributes1 => 0x051
  | .scissorTest => 0x065
  | .viewportCorner => 0x068
  | .depthmapEnable => 0x06D
  | .mainConfig => 0x080
  | .texture0 => 0x081
  | .texture0Format => 0x08E
  | .fragmentLightingEnable => 0x08F
  | .texture1 => 0x091
  | .texture1Format => 0x096
  | .texture2 => 0x099
  | .texture2Format => 0x09E
  | .proctex => 0x0A8
  | .proctexNoiseU => 0x0A9
  | .proctexNoiseV => 0x0AA
  | .proctexNoiseFrequency => 0x0AB
  | .proctexLut => 0x0AC
  | .proctexLutOffset => 0x0AD
  | .proctexLutConfig => 0x0AF
  | .tevStage0 => 0x0C0
  | .tevStage1 => 0x0C8
  | .tevStage2 => 0x0D0
  | .tevStage3 => 0x0D8
  | .tevCombinerBufferInput => 0x0E0
  | .fogMode => 0x0E0
  | .fogColor => 0x0E1
  | .fogLutOffset => 0x0E6
  | .fogLutData => 0x0E8
  | .tevStage4 => 0x0F0
  | .tevStage5 => 0x0F8
  | .tevCombinerBufferColor => 0x0FD
  | .outputMerger => 0x100
  | .framebuffer => 0x110
  | .vertexAttributes => 0x200
  | .indexArray => 0x227
  | .numVertices => 0x228
  | .vertexOffset => 0x22A
  | .drawTrigger => 0x22E
  | .indexedDrawTrigger => 0x22F
  | .vsDefaultAttributesSetup => 0x232
  | .commandBuffer => 0x238
  | .gpuMode => 0x245
  | .triangleTopology => 0x25E
  | .restartPrimitive => 0x25F

/-- The byte offset in the tables of R25 to R30: 4 times the word offset (R11, R61). -/
def Field.byteOffset (f : Field) : Nat := 4 * f.offset

/-- The identifier, as the document spells it; the interrupt trigger is `interrupt_trigger` (R25, R171). -/
def Field.ident : Field → String
  | .interruptTrigger => "interrupt_trigger"
  | .cullMode => "cull_mode"
  | .viewportSizeX => "viewport_size_x"
  | .viewportSizeY => "viewport_size_y"
  | .viewportDepthRange => "viewport_depth_range"
  | .viewportDepthNearPlane => "viewport_depth_near_plane"
  | .vsOutputAttributes0 => "vs_output_attributes[0]"
  | .vsOutputAttributes1 => "vs_output_attributes[1]"
  | .scissorTest => "scissor_test"
  | .viewportCorner => "viewport_corner"
  | .depthmapEnable => "depthmap_enable"
  | .mainConfig => "main_config"
  | .texture0 => "texture0"
  | .texture0Format => "texture0_format"
  | .fragmentLightingEnable => "fragment_lighting_enable"
  | .texture1 => "texture1"
  | .texture1Format => "texture1_format"
  | .texture2 => "texture2"
  | .texture2Format => "texture2_format"
  | .proctex => "proctex"
  | .proctexNoiseU => "proctex_noise_u"
  | .proctexNoiseV => "proctex_noise_v"
  | .proctexNoiseFrequency => "proctex_noise_frequency"
  | .proctexLut => "proctex_lut"
  | .proctexLutOffset => "proctex_lut_offset"
  | .proctexLutConfig => "proctex_lut_config"
  | .tevStage0 => "tev_stage0"
  | .tevStage1 => "tev_stage1"
  | .tevStage2 => "tev_stage2"
  | .tevStage3 => "tev_stage3"
  | .tevCombinerBufferInput => "tev_combiner_buffer_input"
  | .fogMode => "fog_mode"
  | .fogColor => "fog_color"
  | .fogLutOffset => "fog_lut_offset"
  | .fogLutData => "fog_lut_data"
  | .tevStage4 => "tev_stage4"
  | .tevStage5 => "tev_stage5"
  | .tevCombinerBufferColor => "tev_combiner_buffer_color"
  | .outputMerger => "output_merger"
  | .framebuffer => "framebuffer"
  | .vertexAttributes => "vertex_attributes"
  | .indexArray => "index_array"
  | .numVertices => "num_vertices"
  | .vertexOffset => "vertex_offset"
  | .drawTrigger => "draw_trigger"
  | .indexedDrawTrigger => "indexed_draw_trigger"
  | .vsDefaultAttributesSetup => "vs_default_attributes_setup"
  | .commandBuffer => "command_buffer"
  | .gpuMode => "gpu_mode"
  | .triangleTopology => "triangle_topology"
  | .restartPrimitive => "restart_primitive"

/-- The region whose table of the spec lists the field (R25 to R30). -/
def Field.region : Field → Region
  | .interruptTrigger => .low
  | .cullMode => .rasterizer
  | .viewportSizeX => .rasterizer
  | .viewportSizeY => .rasterizer
  | .viewportDepthRange => .rasterizer
  | .viewportDepthNearPlane => .rasterizer
  | .vsOutputAttributes0 => .rasterizer
  | .vsOutputAttributes1 => .rasterizer
  | .scissorTest => .rasterizer
  | .viewportCorner => .rasterizer
  | .depthmapEnable => .rasterizer
  | .mainConfig => .texturing
  | .texture0 => .texturing
  | .texture0Format => .texturing
  | .fragmentLightingEnable => .texturing
  | .texture1 => .texturing
  | .texture1Format => .texturing
  | .texture2 => .texturing
  | .texture2Format => .texturing
  | .proctex => .texturing
  | .proctexNoiseU => .texturing
  | .proctexNoiseV => .texturing
  | .proctexNoiseFrequency => .texturing
  | .proctexLut => .texturing
  | .proctexLutOffset => .texturing
  | .proctexLutConfig => .texturing
  | .tevStage0 => .texturing
  | .tevStage1 => .texturing
  | .tevStage2 => .texturing
  | .tevStage3 => .texturing
  | .tevCombinerBufferInput => .texturing
  | .fogMode => .texturing
  | .fogColor => .texturing
  | .fogLutOffset => .texturing
  | .fogLutData => .texturing
  | .tevStage4 => .texturing
  | .tevStage5 => .texturing
  | .tevCombinerBufferColor => .texturing
  | .outputMerger => .framebuffer
  | .framebuffer => .framebuffer
  | .vertexAttributes => .pipeline
  | .indexArray => .pipeline
  | .numVertices => .pipeline
  | .vertexOffset => .pipeline
  | .drawTrigger => .pipeline
  | .indexedDrawTrigger => .pipeline
  | .vsDefaultAttributesSetup => .pipeline
  | .commandBuffer => .pipeline
  | .gpuMode => .pipeline
  | .triangleTopology => .pipeline
  | .restartPrimitive => .pipeline

/-- The words at which something documented starts: a field, or one of the seven named sub-blocks. -/
def documentedStarts : List Nat :=
  Field.all.map Field.offset ++
    [Region.first .rasterizer, Region.first .texturing, Region.first .framebuffer, Region.first .lighting,
     Region.first .pipeline, Region.first .geometryShader, Region.first .vertexShader]

/-- The last word a field can reach: the one before the next documented start (R32). An upper bound only; the true extent is
not given, and nothing depends on it. -/
def Field.lastPossible (f : Field) : Nat :=
  ((documentedStarts.filter (fun i => f.offset < i)).foldl min Config.numRegs) - 1

end Sys2Proof.Machine
end

