-- ==== Sys2Proof/Machine/ByteView.lean ====
section
/-! DEFINITION. The store seen as 0xC00 bytes, little-endian (R22, R61, R62; decision D8, log entry 7). No operation of the
block takes a byte address; the view is computed from the one store and is never a second copy of it (R21). -/

namespace Sys2Proof.Machine

/-- The byte offset of word `i` from the base (R61). -/
def byteOffset (i : Nat) : Nat := 4 * i

/-- The byte address of word `i` in the platform's address space: `BASE + 4 × i`, with `BASE` open (R61). -/
def byteAddress (i : Nat) : Nat := Config.base + byteOffset i

/-- Byte `a` of the view: lane `a mod 4` of word `a / 4` (R62). The view has 0xC00 bytes and no byte beyond them. -/
def Store.byte (st : Store) (a : Nat) : Option Byte :=
  if a < Config.sizeBytes then some (lane (st.word (a / 4)) (a % 4)) else none

/-- Put `b` into lane `k` of `w`. -/
def setLane (w : Word) (k : Nat) (b : Byte) : Word :=
  combine w (b.setWidth 32 <<< (8 * k)) ((0xFF#32) <<< (8 * k))

/-- `MemWrite(a, 1, b)` (R10, R62). Beyond the view there is no byte to write. -/
def Store.setByte (st : Store) (a : Nat) (b : Byte) : Store :=
  if a < Config.sizeBytes then st.set (a / 4) (setLane (st.word (a / 4)) (a % 4) b) else st

/-- `MemRead(a, n)`: `n` bytes from `a` on, the one at the lowest address least significant (R10, R62).
DESIGN CHOICE (log entry 7), where the spec is silent: any length `n` may be read, over any word boundary; a read of no bytes
is 0 at every address; and a read that starts below 0xC00 and runs past it gives none as a whole, as one that starts beyond. -/
def Store.memRead (st : Store) (a : Nat) : Nat → Option Nat
  | 0 => some 0
  | n + 1 =>
      match st.byte a, Store.memRead st (a + 1) n with
      | some b, some rest => some (b.toNat + 2 ^ 8 * rest)
      | _, _ => none

/-- `MemWrite(a, n, v)`: the low `n` bytes of `v`, least significant first (R10, R62).
DESIGN CHOICE (log entry 7), where the spec is silent: any length `n` may be written, over any word boundary; the bits of `v`
above them are dropped; and a write that starts below 0xC00 and runs past it stores its bytes below 0xC00 and drops the others,
although a read of the same bytes gives none. It acts on the store alone and forwards no event. -/
def Store.memWrite (st : Store) (a : Nat) : Nat → Nat → Store
  | 0, _ => st
  | n + 1, v => Store.memWrite (st.setByte a (BitVec.ofNat 8 v)) (a + 1) n (v / 2 ^ 8)

end Sys2Proof.Machine
end

