-- ==== Sys2Proof/Machine/Channel.lean ====
section
/-! DEFINITION. The document's other design, (b) producer/consumer (R72): WRITE enqueues the mutation on an ordered channel
and a consumer processes the channel strictly in that order. The model of the block is design (a), in Step.lean; this file
holds (b) so that the two can be compared at the interface, as R72 does. -/

namespace Sys2Proof.Machine

/-- A WRITE enqueued on the channel.
DESIGN CHOICE (log entry 13): the spec's channel carries the mutation and any resulting trigger event, and it does not say whether
the two are one entry or two. Here they are one: the WRITE alone is enqueued, and its event is made when it is consumed. -/
structure Posted where
  index : Nat
  value : Word
  mask : Nat
deriving DecidableEq, Repr

/-- The block under design (b): the store, the channel, oldest first, and the output trace. -/
structure ChannelState where
  regs : Store
  channel : List Posted
  out : List Event
deriving DecidableEq, Repr

/-- What can happen next: the requester issues a WRITE, or the consumer takes one up. -/
inductive ChannelMove where
  | issue (p : Posted)
  | consume
deriving DecidableEq, Repr

/-- The event of a posted write, with the store after its own update; none out of range or at no trigger (R72, R154). -/
def Posted.events (p : Posted) (after : Store) : List Event :=
  match kindOf p.index with
  | some k => if p.index < Config.numRegs then [⟨k, after⟩] else []
  | none => []

/-- One move. An enqueued write is neither dropped nor reordered (R71, R72).
DESIGN CHOICE (log entry 13), where the spec is silent: consuming an entry updates the store and forwards its event in the one
move; the channel has no bound; and to consume from an empty channel changes nothing. -/
def ChannelState.move (c : ChannelState) : ChannelMove → ChannelState
  | .issue p => { c with channel := c.channel ++ [p] }
  | .consume =>
      match c.channel with
      | [] => c
      | p :: rest =>
          let after := c.regs.writeMasked p.index p.value p.mask
          { regs := after, channel := rest, out := c.out ++ p.events after }

/-- Moves in order. -/
def ChannelState.moves (c : ChannelState) (ms : List ChannelMove) : ChannelState :=
  ms.foldl ChannelState.move c

/-- The writes the requester issues in `ms`, in order. -/
def issued (ms : List ChannelMove) : List Posted :=
  ms.filterMap (fun m => match m with | .issue p => some p | .consume => none)

/-- Let the consumer empty the channel. -/
def ChannelState.drain (c : ChannelState) : ChannelState :=
  c.moves (c.channel.map (fun _ => ChannelMove.consume))

/-- The WRITE operation a posted write is. -/
def Posted.toInstr (p : Posted) : Instr := .write p.index p.value p.mask

end Sys2Proof.Machine
end

