-- ==== Sys2Proof/Machine/Views.lean ====
section
/-! DEFINITION. Named views (R21, R127) and the pseudo-operations (R102). A name is resolved to an index before the block
is involved: there is no second copy of any field, and the block receives only the number (R101). -/

namespace Sys2Proof.Machine

/-- The word a named view of `f` plus `k` words reads and writes (R101, R127). -/
def Field.index (f : Field) (k : Nat) : Nat := f.offset + k

/-- The pseudo-operations of R102 (decision D18, notation only). -/
inductive Pseudo where
  /-- `SET <field>[+k], <value>` -/
  | set (f : Field) (k : Nat) (value : Word)
  /-- `GET <field>[+k]` -/
  | get (f : Field) (k : Nat)
  /-- `WRITEW <index>, <value>` -/
  | writew (index : Nat) (value : Word)
  /-- `FIRE <trigger>`, the trigger named by the kind of event it raises. -/
  | fire (k : EventKind)
deriving DecidableEq, Repr

/-- The expansions of R102. A view write is a whole-word write, mask 0xF (R127, decision D25; log entry 10). -/
def Pseudo.expand : Pseudo → Instr
  | .set f k value => .write (f.index k) value 0xF
  | .get f k => .read (f.index k)
  | .writew index value => .write index value 0xF
  | .fire k => .write k.triggerIndex 0x00000001#32 0xF

end Sys2Proof.Machine
end

