-- ==== Sys2Proof/Machine/Text.lean ====
section
/-! DEFINITION. The textual form of a request list, one request a line (R101), with the pseudo-operations of R102, and the
numbers of R9. The text is read outside the block: what the block receives is the operation it stands for. -/

namespace Sys2Proof.Machine

/-- The digit characters in the order of their values; the spec writes the six letters as capitals (R9). -/
def digitChars : List Char := "0123456789ABCDEF".toList

/-- The same with small letters, which the model reads alike (log entry 19). -/
def smallDigitChars : List Char := "0123456789abcdef".toList

/-- What a character is worth in base `b`: its place among the first `b` digit characters, if it has one. -/
def digitIn (b : Nat) (c : Char) : Option Nat :=
  ((digitChars.take b).idxOf? c).or ((smallDigitChars.take b).idxOf? c)

/-- The number that one or more digits of base `b` spell, most significant first; nothing where a character is no digit. -/
def digits (b : Nat) (cs : List Char) : Option Nat :=
  if cs = [] then none else cs.foldlM (fun n c => (digitIn b c).map (b * n + ·)) 0

/-- R9: `0x` prefixes hexadecimal, `0b` binary, anything else is decimal.
DESIGN CHOICE (log entry 19): the prefixes are read in small letters only, a prefix needs a digit after it, zeros may lead, and
nothing but digits may stand in a number, no space either. -/
def number : List Char → Option Nat
  | '0' :: 'x' :: ds => digits 16 ds
  | '0' :: 'b' :: ds => digits 2 ds
  | ds => digits 10 ds

/-- Drop spaces at both ends. -/
def trim (cs : List Char) : List Char :=
  ((cs.dropWhile (· = ' ')).reverse.dropWhile (· = ' ')).reverse

/-- The parts of `cs` between occurrences of `sep`. -/
def splitAtChar (sep : Char) : List Char → List (List Char)
  | [] => [[]]
  | c :: rest =>
      match splitAtChar sep rest with
      | [] => [[c]]
      | part :: parts => if c = sep then [] :: part :: parts else (c :: part) :: parts

/-- The field of a name; both names of word 0x0E0 are names (R33, R101). -/
def fieldNamed (cs : List Char) : Option Field :=
  Field.all.find? (fun f => f.ident = String.ofList cs)

/-- `<field>[+k]` (R101).
DESIGN CHOICE (log entry 19), where the spec is silent: spaces on either side of the `+` are dropped; `k` is any number of R9 and
is not bounded; and an operand with more than one `+` is none. -/
def fieldOperand (cs : List Char) : Option (Field × Nat) :=
  match splitAtChar '+' cs with
  | [n] => (fieldNamed (trim n)).map (fun f => (f, 0))
  | [n, k] =>
      match fieldNamed (trim n), number (trim k) with
      | some f, some k => some (f, k)
      | _, _ => none
  | _ => none

/-- `<index>`: a number, or a field name in its place (R101). -/
def indexOperand (cs : List Char) : Option Nat :=
  match number cs with
  | some n => some n
  | none => (fieldOperand cs).map (fun p => p.1.index p.2)

/-- `<value>`: a number of 32 bits (R90). -/
def valueOperand (cs : List Char) : Option Word :=
  match number cs with
  | some n => if n < 2 ^ 32 then some (BitVec.ofNat 32 n) else none
  | none => none

/-- `<trigger>` (R102): one of the three trigger names. -/
def triggerOperand (cs : List Char) : Option EventKind :=
  match fieldNamed cs with
  | some .interruptTrigger => some .irq
  | some .drawTrigger => some .draw
  | some .indexedDrawTrigger => some .drawIndexed
  | _ => none

/-- The operation a mnemonic and its operands stand for. -/
def operationOf (mnemonic : String) (operands : List (List Char)) : Option Instr :=
  match mnemonic, operands with
  | "READ", [i] => (indexOperand i).map Instr.read
  | "WRITE", [i, v, m] =>
      match indexOperand i, valueOperand v, number m with
      | some i, some v, some m => some (.write i v m)
      | _, _, _ => none
  | "NAME", [i] => (indexOperand i).map Instr.name
  | "RESET", [] => some .reset
  | "SET", [f, v] =>
      match fieldOperand f, valueOperand v with
      | some (f, k), some v => some (Pseudo.expand (.set f k v))
      | _, _ => none
  | "GET", [f] => (fieldOperand f).map (fun p => Pseudo.expand (.get p.1 p.2))
  | "WRITEW", [i, v] =>
      match indexOperand i, valueOperand v with
      | some i, some v => some (Pseudo.expand (.writew i v))
      | _, _ => none
  | "FIRE", [t] => (triggerOperand t).map (fun k => Pseudo.expand (.fire k))
  | _, _ => none

/-- One line of a request list: a mnemonic, then operands between commas (R101).
DESIGN CHOICE (log entry 19), where the spec is silent: spaces before the mnemonic, between it and the operands, around commas
and at the end of the line are dropped; no other character counts as a space; and a blank line is none. -/
def parseLine (line : List Char) : Option Instr :=
  let cs := trim line
  let rest := trim (cs.dropWhile (· ≠ ' '))
  operationOf (String.ofList (cs.takeWhile (· ≠ ' ')))
    (if rest = [] then [] else (splitAtChar ',' rest).map trim)

/-- A whole request list, or nothing if one of its lines is none. -/
def parseLines : List (List Char) → Option (List Instr)
  | [] => some []
  | l :: rest =>
      match parseLine l, parseLines rest with
      | some i, some is => some (i :: is)
      | _, _ => none

/-- A text, one request a line (R101).
DESIGN CHOICE (log entry 19): the spec says nothing of a blank line or of an empty text. Here a blank line is no request, so it
makes the whole text none, a newline at the end included (a blank line follows it); and an empty text is one blank line, so it
is none, not the empty list. -/
def parseText (cs : List Char) : Option (List Instr) := parseLines (splitAtChar '\n' cs)

end Sys2Proof.Machine
end

