-- ==== Sys2Proof/Safety.lean ====
section
/-! DEFINITION. The terms claims are stated in: a safe request list, the effect of a list of operations said without the
machine (what the store, the trace and the answers are after it), and the invariants. -/

namespace Sys2Proof

open Machine

/-- What one operation does to the store (R128). -/
def Instr.storeEffect (st : Store) : Instr → Store
  | .read _ => st
  | .write index value mask => st.writeMasked index value mask
  | .name _ => st
  | .rsvd => st
  | .reset => Store.image

/-- The event an operation forwards, if any (R150, R156 to R159). -/
def Instr.eventKind : Instr → Option EventKind
  | .read _ => none
  | .write index _ _ => kindOf index
  | .name _ => none
  | .rsvd => none
  | .reset => none

/-- The answer to an operation performed on the store `st`, if it has one (R97). -/
def Instr.answer (st : Store) : Instr → Option Response
  | .read index => some (.rdata (st.read index))
  | .write _ _ _ => none
  | .name index => some (.nameId (nameOf index))
  | .rsvd => none
  | .reset => none

/-- What an operation puts into lane `k` of word `j`, if it writes there: a WRITE at `j` whose mask selects the lane (R125), or
RESET (R176). -/
def Instr.laneWritten (j k : Nat) : Instr → Option Byte
  | .read _ => none
  | .write index value mask => if index = j ∧ mask.testBit k then some (lane value k) else none
  | .name _ => none
  | .rsvd => none
  | .reset => some (lane (Config.resetImage j) k)

end Sys2Proof

namespace Sys2Proof.Machine

/-- Every issued input selects an operation: none is the reserved selector (R98). -/
abbrev Valid (xs : List Input) : Prop := ∀ x ∈ xs, x.decode ≠ .rsvd

/-- Perform operations in order, stopping where one has no next state. -/
def performAll : List Instr → State → Host.Outcome State Fault Refusal
  | [], s => .next s
  | i :: rest, s =>
      match exec i s with
      | .next t => performAll rest t
      | .fault r => .fault r
      | .refused r => .refused r

/-- The store after a list of operations performed in order (R69). -/
def storeAfter (st : Store) (is : List Instr) : Store := is.foldl Instr.storeEffect st

/-- R70, in its own words: the snapshot in the event of the n-th request is the store after requests 1 to n have been applied
and before request n+1 is. (Positions count from 0 here.) -/
def eventsOf (st : Store) (is : List Instr) : List Event :=
  (List.range is.length).filterMap (fun n =>
    ((is[n]?).bind Instr.eventKind).map (fun k => ⟨k, storeAfter st (is.take (n + 1))⟩))

/-- The answers, in request order: the n-th request is answered from the store that the requests before it left (R8, R69). -/
def answersOf (st : Store) (is : List Instr) : List Response :=
  (List.range is.length).filterMap (fun n => (is[n]?).bind (Instr.answer (storeAfter st (is.take n))))

/-- `s` is reached from `s₀` by performing some of the inputs issued in `s₀`, in their order (R69): what is left is the rest
of them, and store, trace and answers are what those performed make them. -/
def HistoryOf (s₀ s : State) : Prop :=
  ∃ done : List Input,
    s₀.inputs = done ++ s.inputs ∧
    s.regs = storeAfter s₀.regs (done.map Input.decode) ∧
    s.out = s₀.out ++ eventsOf s₀.regs (done.map Input.decode) ∧
    s.responses = s₀.responses ++ answersOf s₀.regs (done.map Input.decode)

/-- The store and every snapshot handed out are in canonical form. -/
abbrev State.wf (s : State) : Prop := s.regs.wf ∧ ∀ e ∈ s.out, e.snap.wf

/-- The latest write to lane `k` of word `j` among operations performed in order, or else the byte that was there. -/
def latestLane (j k : Nat) (old : Byte) (is : List Instr) : Byte :=
  (is.reverse.findSome? (Instr.laneWritten j k)).getD old

/-- Two stores hold the same words everywhere but at `j`. -/
def AgreeOff (j : Nat) (a b : Store) : Prop := ∀ i, i ≠ j → a.read i = b.read i

/-- Two traces have the same kinds in the same order, and snapshots that agree off `j`. -/
def EventsAgreeOff (j : Nat) : List Event → List Event → Prop :=
  List.Forall₂ (fun a b => a.kind = b.kind ∧ AgreeOff j a.snap b.snap)

/-- One requester's view cannot tell `s` from `t` without reading word `j`. -/
def LooksAlikeOff (j : Nat) (s t : State) : Prop :=
  AgreeOff j s.regs t.regs ∧ EventsAgreeOff j s.out t.out ∧ s.responses = t.responses ∧ s.inputs = t.inputs

end Sys2Proof.Machine
end

