-- ==== Sys2Proof/Certificates/Slice0/Obligations.lean ====
section
/-! DEFINITION. The statements about the model, each from the rules of spec/ that its docstring names. Where a statement
rests on a decision of the spec (D1 to D28), the docstring says so: it is then the model's choice as much as the spec's. -/

open Sys2Proof Sys2Proof.Machine

/-! ## The data operations -/

/-- R120: EXPAND is the loop of its pseudocode on every natural number, each lane of the result is 0xFF or 0x00 as the mask
bit says, and only the low four bits of the mask matter. Choices it rests on: which lane mask bits 1 to 3 govern (D7, log
entry 6); the mask of the abstract WRITE is any natural number, 8 bits in a request word (D6, log entry 12). -/
def Obligations.ExpandIsTheMaskLoop : Prop :=
  ∀ m : Nat,
    expand m = (List.range 4).foldl
      (fun e k => if (m &&& 0xF).testBit k then e ||| (0xFF#32 <<< (8 * k)) else e) 0#32 ∧
    (∀ k, k < 4 → lane (expand m) k = if m.testBit k then 0xFF#8 else 0x00#8) ∧
    expand m = expand (m % 16)

/-- R121, the whole rule, of COMBINE by itself: result bit j is v[j] where e[j] = 1 and old[j] elsewhere; the same lane by lane
under any e whose lane k is 0xFF where bit k of m is 1 and 0x00 where it is 0; the four corner cases; and the example of the
rule. It assumes nothing of which e the MaskExpander gives for m: that is `CombineUnderExpandIsLanewise`. -/
def Obligations.CombineSelectsBitwise : Prop :=
  (∀ old v e : Word,
    combine old v e = (old &&& ~~~e) ||| (v &&& e) ∧
    (∀ j, j < 32 → (combine old v e).getLsbD j = if e.getLsbD j then v.getLsbD j else old.getLsbD j) ∧
    combine old v 0x00000000#32 = old ∧ combine old v 0xFFFFFFFF#32 = v ∧ combine old old e = old ∧
    combine (combine old v e) v e = combine old v e) ∧
  (∀ (old v e : Word) (m : Nat), (∀ k, k < 4 → lane e k = if m.testBit k then 0xFF#8 else 0x00#8) →
    ∀ k, k < 4 → lane (combine old v e) k = if m.testBit k then lane v k else lane old k) ∧
  combine 0x12345678#32 0xAABBCCDD#32 0x000000FF#32 = 0x123456DD#32

/-- R121 with R120: under the expanded mask of any m, lane k of the combination is that of v where bit k of m is 1 and of old
where it is 0. Choices it rests on: which lane mask bits 1 to 3 govern (D7, log entry 6). -/
def Obligations.CombineUnderExpandIsLanewise : Prop :=
  ∀ (old v : Word) (m k : Nat), k < 4 →
    lane (combine old v (expand m)) k = if m.testBit k then lane v k else lane old k

/-! ## The store -/

/-- R20: the store is an array of exactly 0x300 words of 32 bits. Every assignment of values to the 0x300 words is a store, so no
word is hardwired, none aliases another and none is short of a value. Writing word i puts the value there, whatever it is, and
leaves every other word, so index i always names the same word; and no index past 0x2FF names one. It is said through reading
and writing a word alone, whatever the form in which the words are held. -/
def Obligations.StoreIsAnArrayOfIndependentWords : Prop :=
  Config.numRegs = 0x300 ∧
  (∀ w : Nat → Word, ∃ st : Store, ∀ i, i < 0x300 → st.read i = w i) ∧
  (∀ (st : Store) (i : Nat) (v : Word), i < 0x300 →
    (st.set i v).read i = v ∧ ∀ j, j ≠ i → (st.set i v).read j = st.read j) ∧
  (∀ (st : Store) (i : Nat) (v : Word), 0x300 ≤ i → ∀ j, (st.set i v).read j = st.read j)

/-! ## READ -/

/-- R122, R66, R158: READ completes at every index and in every state, answers the stored word in range and 0 out of range,
and changes nothing else: not the store, not the trace, at trigger indices as at any other. Choices it rests on: issued inputs
and answers stand as lists in the state (log entry 4); the form of an answer (D12, log entry 4). -/
def Obligations.ReadAnswersAndChangesNothing : Prop :=
  ∀ (index : Nat) (s : State), ∃ v : Word,
    exec (.read index) s =
      .next { regs := s.regs, out := s.out, responses := s.responses ++ [.rdata v], inputs := s.inputs } ∧
    (index < 0x300 → v = s.regs.word index) ∧ (¬ index < 0x300 → v = 0x00000000#32)

/-! ## WRITE -/

/-- R123, R128, R155: WRITE completes at every index, with every value and mask. In range the word takes the combined value
and, at a trigger index only, one event follows that carries the store just updated; nothing is answered. Out of range nothing
changes at all. Choices it rests on: a trigger WRITE stores and dispatches in one step (D2, log entry 13); a trigger WRITE
whose mask selects no lane dispatches (D10, log entry 3); an event of every kind is its kind with the whole store, in an
append-only trace (D11, log entry 16); only the three triggers have a side effect (gap N6, log entry 15); issued inputs and
answers stand as lists in the state (log entry 4). -/
def Obligations.WriteStoresThenDispatches : Prop :=
  ∀ (index : Nat) (value : Word) (mask : Nat) (s : State),
    ∃ t : State, exec (.write index value mask) s = .next t ∧
      t.responses = s.responses ∧ t.inputs = s.inputs ∧
      (∀ j, j ≠ index → t.regs.read j = s.regs.read j) ∧
      (index < 0x300 → t.regs.read index = combine (s.regs.read index) value (expand mask)) ∧
      (¬ index < 0x300 → t = s) ∧
      (index = 0x010 → t.out = s.out ++ [⟨.irq, t.regs⟩]) ∧
      (index = 0x22E → t.out = s.out ++ [⟨.draw, t.regs⟩]) ∧
      (index = 0x22F → t.out = s.out ++ [⟨.drawIndexed, t.regs⟩]) ∧
      (index ≠ 0x010 ∧ index ≠ 0x22E ∧ index ≠ 0x22F → t.out = s.out)

/-- R125, R62: mask bit k is the write enable of lane k and of no other lane. For each of the four lanes independently: the
new lane is the value's where the mask bit is 1 and the old one otherwise; no data crosses lanes. Choices it rests on: which
lane mask bits 1 to 3 govern (D7, log entry 6). -/
def Obligations.WriteEnablesLanesIndependently : Prop :=
  ∀ (index : Nat) (value : Word) (mask : Nat) (s : State), index < 0x300 →
    ∃ t : State, exec (.write index value mask) s = .next t ∧
      ∀ k, k < 4 → lane (t.regs.word index) k =
        if mask.testBit k then lane value k else lane (s.regs.word index) k

/-- The frame of WRITE in bytes (R64, R124, R62): of the 0xC00 bytes, only the lanes the mask selects in word `index` can
change, and a WRITE out of range changes no byte; answers and waiting inputs stay, and nothing already in the trace changes.
Choices it rests on: which lane mask bits 1 to 3 govern (D7, log entry 6); the byte order of the byte view, and no byte at
0xC00 or beyond (D8, log entry 7); an event of every kind is its kind with the whole store, in an append-only trace (D11, log
entry 16); issued inputs and answers stand as lists in the state (log entry 4). -/
def Obligations.WriteFrameInBytes : Prop :=
  ∀ (index : Nat) (value : Word) (mask : Nat) (s t : State), exec (.write index value mask) s = .next t →
    (∀ a : Nat, ¬ (∃ k, k < 4 ∧ mask.testBit k = true ∧ a = 4 * index + k) → t.regs.byte a = s.regs.byte a) ∧
    (¬ index < 0x300 → ∀ a : Nat, t.regs.byte a = s.regs.byte a) ∧
    t.responses = s.responses ∧ t.inputs = s.inputs ∧ s.out <+: t.out

/-- R64, R62: a WRITE whose mask selects the single lane k is a one-byte write of that lane of the value, at byte 4·index + k
of the little-endian view, and a whole-word WRITE is a four-byte write at byte 4·index. Stated of every byte. Choices it rests
on: which lane mask bits 1 to 3 govern (D7, log entry 6); the byte order of the byte view, and no byte at 0xC00 or beyond (D8,
log entry 7). -/
def Obligations.WriteIsAByteViewWrite : Prop :=
  ∀ (index : Nat) (value : Word) (s : State), index < 0x300 →
    (∀ k, k < 4 → ∃ t : State, exec (.write index value (2 ^ k)) s = .next t ∧
      ∀ a, t.regs.byte a = (s.regs.setByte (4 * index + k) (lane value k)).byte a) ∧
    (∃ t : State, exec (.write index value 0xF) s = .next t ∧
      ∀ a, t.regs.byte a = (s.regs.memWrite (4 * index) 4 value.toNat).byte a)

/-- R124, null mask and full mask: after `WRITE i, v, 0` a READ at i answers what it answered before, at every index; after
`WRITE i, v, 0xF` it answers v, at every index in range (90_conflicts.md C3). Choices it rests on: operations are performed
one at a time, in order, each as one step (D1, log entry 13); issued inputs and answers stand as lists in the state (log entry
4). -/
def Obligations.NullAndFullMaskWrites : Prop :=
  ∀ (i : Nat) (v : Word) (s : State),
    (∃ t, performAll [.write i v 0, .read i] s = .next t ∧
      t.responses = s.responses ++ [.rdata (s.regs.read i)]) ∧
    (i < 0x300 → ∃ t, performAll [.write i v 0xF, .read i] s = .next t ∧
      t.responses = s.responses ++ [.rdata v])

/-- R124, R66, idempotence: the same WRITE twice leaves every word as once, with any mask; on the trace it is not idempotent:
at a trigger index two writes give two events with equal snapshots. Choices it rests on: operations are performed one at a
time, in order, each as one step (D1, log entry 13); a trigger WRITE stores and dispatches in one step (D2, log entry 13); a
trigger WRITE whose mask selects no lane dispatches (D10, log entry 3); an event of every kind is its kind with the whole
store, in an append-only trace (D11, log entry 16). -/
def Obligations.SameWriteTwiceStoresAsOnce : Prop :=
  ∀ (i : Nat) (v : Word) (m : Nat) (s : State),
    ∃ t u : State, exec (.write i v m) s = .next t ∧ performAll [.write i v m, .write i v m] s = .next u ∧
      (∀ j, u.regs.read j = t.regs.read j) ∧
      (∀ k, kindOf i = some k → ∃ a b : Store,
        u.out = s.out ++ [⟨k, a⟩, ⟨k, b⟩] ∧ ∀ j, a.read j = b.read j)

/-- R124, later write wins per lane: after `WRITE i, v, m` and `WRITE i, w, n`, lane k holds lane k of w if n selects it, else
lane k of v if m does, else its old content. Choices it rests on: operations are performed one at a time, in order, each as
one step (D1, log entry 13); which lane mask bits 1 to 3 govern (D7, log entry 6). -/
def Obligations.LaterWriteWinsPerLane : Prop :=
  ∀ (i : Nat) (v w : Word) (m n : Nat) (s : State), i < 0x300 →
    ∃ t, performAll [.write i v m, .write i w n] s = .next t ∧
      ∀ k, k < 4 → lane (t.regs.word i) k =
        if n.testBit k then lane w k else if m.testBit k then lane v k else lane (s.regs.word i) k

/-- R124, disjoint masks commute on the store: if the two masks share no lane, the two writes leave the same word in either
order, and the same words elsewhere. Choices it rests on: operations are performed one at a time, in order, each as one step
(D1, log entry 13). -/
def Obligations.DisjointMasksCommuteOnTheStore : Prop :=
  ∀ (i : Nat) (v w : Word) (m n : Nat) (s : State), m &&& n &&& 0xF = 0 →
    ∃ t u, performAll [.write i v m, .write i w n] s = .next t ∧
      performAll [.write i w n, .write i v m] s = .next u ∧ ∀ j, t.regs.read j = u.regs.read j

/-- R93, R99, R124, mask truncation: `WRITE i, v, m` and `WRITE i, v, m & 0xF` are the same step from every state. Choices it
rests on: the mask of the abstract WRITE is any natural number, 8 bits in a request word (D6, log entry 12). -/
def Obligations.MaskIsTruncatedToFourBits : Prop :=
  ∀ (i : Nat) (v : Word) (m : Nat) (s : State), exec (.write i v m) s = exec (.write i v (m &&& 0xF)) s

/-- R67: at an index of 0x300 or more, a WRITE is a silent no-op (no word changes, no event, no error) and a READ answers
0x00000000. Indices do not wrap: a WRITE at 0x310 leaves word 0x010 alone and dispatches nothing. That the READ keeps the store
and the trace is R66 and R122. Choices it rests on: issued inputs and answers stand as lists in the state (log entry 4); the form
of an answer (D12, log entry 4). -/
def Obligations.OutOfRangeIsDefined : Prop :=
  (∀ (index : Nat) (value : Word) (mask : Nat) (s : State), 0x300 ≤ index →
    exec (.write index value mask) s = .next s ∧
    ∃ t, exec (.read index) s = .next t ∧ t.responses = s.responses ++ [.rdata 0x00000000#32] ∧
      t.regs = s.regs ∧ t.out = s.out) ∧
  (∀ (value : Word) (mask : Nat) (s : State), ∃ t, exec (.write 0x310 value mask) s = .next t ∧
    t.regs.read 0x010 = s.regs.read 0x010 ∧ t.out = s.out)

/-! ## The triggers -/

/-- R150, R157, R158, R159, R222: the trigger map, complete. The three indices, their byte offsets, kinds and receivers; no
other index dispatches, and no operation but a WRITE at one of the three does. Choices it rests on: only the three triggers
have a side effect (gap N6, log entry 15); RESET dispatches nothing and leaves the trace (D23, log entry 16); the numbers of
the register map are word offsets (conflict C1, log entry 18). -/
def Obligations.TriggerMapIsComplete : Prop :=
  kindOf 0x010 = some .irq ∧ kindOf 0x22E = some .draw ∧ kindOf 0x22F = some .drawIndexed ∧
  byteOffset 0x010 = 0x040 ∧ byteOffset 0x22E = 0x8B8 ∧ byteOffset 0x22F = 0x8BC ∧
  Field.interruptTrigger.offset = 0x010 ∧ Field.drawTrigger.offset = 0x22E ∧ Field.indexedDrawTrigger.offset = 0x22F ∧
  EventKind.irq.receiver = .interruptController ∧ EventKind.draw.receiver = .commandProcessor ∧
  EventKind.drawIndexed.receiver = .commandProcessor ∧
  (∀ i, i ≠ 0x010 → i ≠ 0x22E → i ≠ 0x22F → kindOf i = none) ∧
  (∀ (i : Instr) (s t : State), exec i s = .next t → t.out ≠ s.out →
    ∃ v m, i = .write 0x010 v m ∨ i = .write 0x22E v m ∨ i = .write 0x22F v m)

/-- R151 to R155: a WRITE at each trigger index completes with its word combined and exactly one event of its kind appended,
whose snapshot is the store after that update; the event does not depend on value or mask. Words 0x230 and 0x231, next to the
indexed-draw trigger, dispatch nothing (R153). Choices it rests on: a trigger WRITE stores and dispatches in one step (D2, log
entry 13); a trigger WRITE whose mask selects no lane dispatches (D10, log entry 3); an event of every kind is its kind with
the whole store, in an append-only trace (D11, log entry 16); issued inputs and answers stand as lists in the state (log entry
4). -/
def Obligations.TriggerWriteCarriesTheUpdatedStore : Prop :=
  ∀ (k : EventKind) (value : Word) (mask : Nat) (s : State), ∃ t : State,
    exec (.write k.triggerIndex value mask) s = .next t ∧
    t.out = s.out ++ [⟨k, t.regs⟩] ∧
    t.regs.read k.triggerIndex = combine (s.regs.read k.triggerIndex) value (expand mask) ∧
    (∀ j, j ≠ k.triggerIndex → t.regs.read j = s.regs.read j) ∧
    t.responses = s.responses ∧
    (∀ j, j = 0x230 ∨ j = 0x231 → ∃ u, exec (.write j value mask) s = .next u ∧ u.out = s.out)

/-- R156, R195: n WRITEs at trigger indices append n events, in the order of the WRITEs, all on the one trace. Run from any
state whose issued inputs all decode to WRITEs at trigger indices. Choices it rests on: operations are performed one at a
time, in order, each as one step (D1, log entry 13); a trigger WRITE stores and dispatches in one step (D2, log entry 13); a
trigger WRITE whose mask selects no lane dispatches (D10, log entry 3); an event of every kind is its kind with the whole
store, in an append-only trace (D11, log entry 16); issued inputs and answers stand as lists in the state (log entry 4). -/
def Obligations.OneEventPerTriggerWriteInOrder : Prop :=
  ∀ (s : State) (ks : List EventKind),
    s.inputs.map (fun x => x.decode.eventKind) = ks.map some →
    ∃ t, Host.Core.run core s.inputs.length s = .next t ∧ t.inputs = [] ∧
      t.out.map Event.kind = s.out.map Event.kind ++ ks ∧ t.out.length = s.out.length + s.inputs.length

/-- R163, R224: after num_vertices = N, vertex_attributes = A and the draw trigger, the last event is a draw whose snapshot
holds N and A, and a later write of M to num_vertices does not change it; from every state, for all values, with any mask on
the trigger. Choices it rests on: operations are performed one at a time, in order, each as one step (D1, log entry 13); a
trigger WRITE stores and dispatches in one step (D2, log entry 13); a trigger WRITE whose mask selects no lane dispatches
(D10, log entry 3); an event of every kind is its kind with the whole store, in an append-only trace (D11, log entry 16); the
notation (D18, log entry 19); a write through a name is a whole-word WRITE (D25, log entry 10); the numbers of the register
map are word offsets (conflict C1, log entry 18). -/
def Obligations.DrawObservesEarlierWritesOnly : Prop :=
  ∀ (s : State) (n a x m : Word) (mask : Nat), ∃ (t u : State) (e : Event),
    performAll [Pseudo.expand (.set .numVertices 0 n), Pseudo.expand (.set .vertexAttributes 0 a),
      .write Field.drawTrigger.offset x mask] s = .next t ∧
    t.out = s.out ++ [e] ∧ e.kind = .draw ∧ e.snap.read 0x228 = n ∧ e.snap.read 0x200 = a ∧
    exec (Pseudo.expand (.set .numVertices 0 m)) t = .next u ∧
    u.regs.read 0x228 = m ∧ u.out = s.out ++ [e]

/-! ## NAME and the layout contract -/

/-- R170: NAME completes at every index and in every state with the entry of the constant name table, and changes nothing.
Choices it rests on: the strings of the name table (D16, log entry 9); the placeholder for an index out of range (D27, log
entry 9); the form of an answer (D12, log entry 4); issued inputs and answers stand as lists in the state (log entry 4). -/
def Obligations.NameIsAPureLookup : Prop :=
  ∀ (index : Nat) (s : State),
    exec (.name index) s = .next
      { regs := s.regs, out := s.out, responses := s.responses ++ [.nameId (nameOf index)], inputs := s.inputs }

/-- R171: a documented field's first word has the field's identifier, but for the second name of word 0x0E0; three sub-block
bases have the sub-block's name; every other natural number has the placeholder. Choices it rests on: the strings of the name
table (D16, log entry 9); the placeholder for an index out of range (D27, log entry 9); fog_mode and tev_combiner_buffer_input
name one word (D15, log entry 18); the numbers of the register map are word offsets (conflict C1, log entry 18). -/
def Obligations.NameTableFollowsTheLayout : Prop :=
  (∀ f : Field, f ≠ .fogMode → nameOf f.offset = f.ident) ∧
  nameOf Field.fogMode.offset = "tev_combiner_buffer_input" ∧
  nameOf 0x140 = "lighting" ∧ nameOf 0x280 = "geometry_shader" ∧ nameOf 0x2B0 = "vertex_shader" ∧
  (∀ i : Nat, (∀ f : Field, f.offset ≠ i) → i ≠ 0x140 → i ≠ 0x280 → i ≠ 0x2B0 → nameOf i = "reserved") ∧
  nameTable.length = 53

/-- R172, R22: the layout contract. 0x300 words, 0xC00 bytes; each of the 51 names of R25 to R30 bound to the word offset of
its table, which is the index that a read or write of the name uses, with the byte offset 4 times that; the seven bases (R24);
the three trigger indices; each field in its own block and in range; all offsets distinct but the shared one (R33). Choices it
rests on: where the regions end (D13, log entry 8); fog_mode and tev_combiner_buffer_input name one word (D15, log entry 18);
the numbers of the register map are word offsets (conflict C1, log entry 18). -/
def Obligations.LayoutContractHolds : Prop :=
  Config.numRegs = 0x300 ∧ Config.sizeBytes = 0xC00 ∧
  Field.all.length = 51 ∧ (∀ f : Field, f ∈ Field.all) ∧
  Field.all.map (fun f => (f.ident, f.offset)) =
    [("interrupt_trigger", 0x010)] ++
    [("cull_mode", 0x040), ("viewport_size_x", 0x041), ("viewport_size_y", 0x043), ("viewport_depth_range", 0x04D),
     ("viewport_depth_near_plane", 0x04E), ("vs_output_attributes[0]", 0x050), ("vs_output_attributes[1]", 0x051),
     ("scissor_test", 0x065), ("viewport_corner", 0x068), ("depthmap_enable", 0x06D)] ++
    [("main_config", 0x080), ("texture0", 0x081), ("texture0_format", 0x08E), ("fragment_lighting_enable", 0x08F),
     ("texture1", 0x091), ("texture1_format", 0x096), ("texture2", 0x099), ("texture2_format", 0x09E),
     ("proctex", 0x0A8), ("proctex_noise_u", 0x0A9), ("proctex_noise_v", 0x0AA), ("proctex_noise_frequency", 0x0AB),
     ("proctex_lut", 0x0AC), ("proctex_lut_offset", 0x0AD), ("proctex_lut_config", 0x0AF), ("tev_stage0", 0x0C0),
     ("tev_stage1", 0x0C8), ("tev_stage2", 0x0D0), ("tev_stage3", 0x0D8), ("tev_combiner_buffer_input", 0x0E0),
     ("fog_mode", 0x0E0), ("fog_color", 0x0E1), ("fog_lut_offset", 0x0E6), ("fog_lut_data", 0x0E8),
     ("tev_stage4", 0x0F0), ("tev_stage5", 0x0F8), ("tev_combiner_buffer_color", 0x0FD)] ++
    [("output_merger", 0x100), ("framebuffer", 0x110)] ++
    [("vertex_attributes", 0x200), ("index_array", 0x227), ("num_vertices", 0x228), ("vertex_offset", 0x22A),
     ("draw_trigger", 0x22E), ("indexed_draw_trigger", 0x22F), ("vs_default_attributes_setup", 0x232),
     ("command_buffer", 0x238), ("gpu_mode", 0x245), ("triangle_topology", 0x25E), ("restart_primitive", 0x25F)] ∧
  (∀ f : Field, f.index 0 = f.offset ∧ f.byteOffset = 4 * f.offset) ∧
  [EventKind.irq, .draw, .drawIndexed].map EventKind.triggerIndex = [0x010, 0x22E, 0x22F] ∧
  [Region.first .rasterizer, Region.first .texturing, Region.first .framebuffer, Region.first .lighting,
    Region.first .pipeline, Region.first .geometryShader, Region.first .vertexShader] =
      [0x040, 0x080, 0x100, 0x140, 0x200, 0x280, 0x2B0] ∧
  (∀ f : Field, f.offset < 0x300 ∧ f.region.first ≤ f.offset ∧ f.offset ≤ f.region.last ∧
    regionOf f.offset = some f.region) ∧
  (∀ f g : Field, f.offset = g.offset →
    f = g ∨ (f = .tevCombinerBufferInput ∧ g = .fogMode) ∨ (f = .fogMode ∧ g = .tevCombinerBufferInput))

/-- R24: the nine regions partition the index space: an index lies in a region exactly when it is in range, and in one region
only. Choices it rests on: where the regions end (D13, log entry 8). -/
def Obligations.RegionsPartitionTheIndexSpace : Prop :=
  ∀ i : Nat, (i < 0x300 ↔ ∃ r, regionOf i = some r) ∧
    ∀ r : Region, r.first ≤ i → i ≤ r.last → regionOf i = some r

/-- R127, R175, R102: for every field f, every k and every state, a write through the name, k words on, is the WRITE of index
f + k with mask 0xF, event included, and a read through the name is the READ of it. For the first word of every field, writing
through the name and reading through the index answer the value written, and the reverse. The first words of the two names of
0x0E0 are one word (R33): each reads what was written through the other. Choices it rests on: operations are performed one at
a time, in order, each as one step (D1, log entry 13); fog_mode and tev_combiner_buffer_input name one word (D15, log entry
18); the numbers of the register map are word offsets (conflict C1, log entry 18); the notation (D18, log entry 19); a write
through a name is a whole-word WRITE (D25, log entry 10); issued inputs and answers stand as lists in the state (log entry 4).
-/
def Obligations.NamedAndIndexedAccessAgree : Prop :=
  (∀ (f : Field) (k : Nat) (v : Word) (s : State),
    exec (Pseudo.expand (.set f k v)) s = exec (.write (f.offset + k) v 0xF) s ∧
    exec (Pseudo.expand (.get f k)) s = exec (.read (f.offset + k)) s) ∧
  (∀ (f : Field) (v : Word) (s : State),
    (∃ t, performAll [Pseudo.expand (.set f 0 v), .read f.offset] s = .next t ∧
      t.responses = s.responses ++ [.rdata v]) ∧
    (∃ t, performAll [.write f.offset v 0xF, Pseudo.expand (.get f 0)] s = .next t ∧
      t.responses = s.responses ++ [.rdata v])) ∧
  (∀ (v : Word) (s : State), ∃ t,
    performAll [Pseudo.expand (.set .fogMode 0 v), Pseudo.expand (.get .tevCombinerBufferInput 0)] s = .next t ∧
      t.responses = s.responses ++ [.rdata v]) ∧
  (∀ (v : Word) (s : State), ∃ t,
    performAll [Pseudo.expand (.set .tevCombinerBufferInput 0 v), Pseudo.expand (.get .fogMode 0)] s = .next t ∧
      t.responses = s.responses ++ [.rdata v])

/-- R102, R123, R150 to R154: the other two pseudo-operations. WRITEW is a full-word write. FIRE completes, stores 1 in its
trigger word and, by the rules of the WRITE it expands to, appends exactly one event of its kind with the new store as
snapshot, for the interrupt trigger as for the two draws. Choices it rests on: a trigger WRITE stores and dispatches in one
step (D2, log entry 13); an event of every kind is its kind with the whole store, in an append-only trace (D11, log entry 16);
the notation (D18, log entry 19); a write through a name is a whole-word WRITE (D25, log entry 10). -/
def Obligations.WritewAndFireExpand : Prop :=
  (∀ (i : Nat) (v : Word), Pseudo.expand (.writew i v) = .write i v 0xF) ∧
  (∀ (k : EventKind) (s : State), ∃ t, exec (Pseudo.expand (.fire k)) s = .next t ∧
    t.regs.read k.triggerIndex = 0x00000001#32 ∧ t.out = s.out ++ [⟨k, t.regs⟩])

/-- R62, R61, R22: the byte view. Byte 4i + k is lane k of word i, four bytes at 4i are word i, there is no byte at 0xC00 or
beyond, and the byte address of word i is BASE + 4i, whatever BASE is. Choices it rests on: the byte order of the byte view,
and no byte at 0xC00 or beyond (D8, log entry 7); BASE is open (D9, log entry 5). -/
def Obligations.ByteViewIsLittleEndian : Prop :=
  ∀ (st : Store) (i : Nat),
    (i < 0x300 → (∀ k, k < 4 → st.memRead (4 * i + k) 1 = some (lane (st.read i) k).toNat) ∧
      st.memRead (4 * i) 4 = some (st.read i).toNat) ∧
    (∀ a, 0xC00 ≤ a → st.byte a = none) ∧
    byteAddress i = Config.base + 4 * i

/-! ## RESET and creation -/

/-- R176, R220, R222: RESET completes in every state, puts every word at 0, dispatches nothing and answers nothing, and leaves
the trace as it is; RESET twice is RESET once. Choices it rests on: the reset value is zero (D3, log entry 1); RESET
dispatches nothing and leaves the trace (D23, log entry 16); issued inputs and answers stand as lists in the state (log entry
4). -/
def Obligations.ResetRestoresTheImage : Prop :=
  ∀ s : State, ∃ t, exec .reset s = .next t ∧
    (∀ i, t.regs.read i = 0x00000000#32) ∧ (∀ i, i < 0x300 → t.regs.read i = Config.resetImage i) ∧
    t.out = s.out ∧ t.responses = s.responses ∧ t.inputs = s.inputs ∧ exec .reset t = .next t

/-- R41, R42, R221: at creation every word is 0 and the trace is empty. That nothing has been answered, that nothing is issued
and that the store is in canonical form are clauses of the model's own, which no rule says. Choices it rests on: the reset
value is zero (D3, log entry 1); the state at creation is the reset state (D24, log entry 1); an event of every kind is its
kind with the whole store, in an append-only trace (D11, log entry 16); issued inputs and answers stand as lists in the state
(log entry 4); the canonical form of the store (log entry 11). -/
def Obligations.CreationState : Prop :=
  (∀ i, State.reset.regs.read i = 0x00000000#32) ∧ State.reset.out = [] ∧ State.reset.responses = [] ∧
  State.reset.inputs = [] ∧ State.reset.wf

/-! ## Encoding -/

/-- R91 to R95, R103: decoding the encoding of a well-formed operation gives it back, with every operand at every value the
encoding admits. Choices it rests on: the binary form of a request, and RESET as a sideband (D4, log entry 12); the 22 bits of
the index field (D5, log entry 12); the mask of the abstract WRITE is any natural number, 8 bits in a request word (D6, log
entry 12). -/
def Obligations.DecodeOfEncode : Prop :=
  ∀ i : Instr, i.WellFormed → (encode i).decode = i

/-- R91, R92: of a word whose selector is WRITE no bit is ignored: encoding what it decodes to gives the word back. Choices it
rests on: the binary form of a request, and RESET as a sideband (D4, log entry 12). -/
def Obligations.EncodeOfDecodedWrite : Prop :=
  ∀ w : Req, w.extractLsb' 62 2 = 0b01#2 → encode (decodeReq w) = .request w

/-- R91: the encoding is `(op << 62) | (mask8 << 54) | (index << 32) | value`, for every well-formed operation that has one.
The zeros in the fields that an operation does not use are the encoder's (log entry 12). Choices it rests on: the binary form of a request,
and RESET as a sideband (D4, log entry 12). -/
def Obligations.RequestWordIsPacked : Prop :=
  ∀ i : Instr, i.WellFormed → ∀ w, encode i = .request w →
    w.toNat = match i with
      | .read index => (0 <<< 62) ||| (0 <<< 54) ||| (index <<< 32) ||| 0
      | .write index value mask => (1 <<< 62) ||| (mask <<< 54) ||| (index <<< 32) ||| value.toNat
      | .name index => (2 <<< 62) ||| (0 <<< 54) ||| (index <<< 32) ||| 0
      | .rsvd => 3 <<< 62
      | .reset => 0

/-- R92, R99, R100: the selector alone says which operation a word is, READ and NAME ignore `mask8` and `value`, and nothing
else of the word is ignored: two words decode alike exactly when their selectors agree and so do the fields that are used.
Choices it rests on: the binary form of a request, and RESET as a sideband (D4, log entry 12); op = 11 selects no operation
and is refused by name (D17, log entry 2). -/
def Obligations.IgnoredFieldsAreExactlyThese : Prop :=
  ∀ w w' : Req, decodeReq w = decodeReq w' ↔
    (w.extractLsb' 62 2 = w'.extractLsb' 62 2 ∧
      (w.extractLsb' 62 2 = 0b11#2 ∨ w.extractLsb' 32 22 = w'.extractLsb' 32 22) ∧
      (w.extractLsb' 62 2 ≠ 0b01#2 ∨
        (w.extractLsb' 54 8 = w'.extractLsb' 54 8 ∧ w.extractLsb' 0 32 = w'.extractLsb' 0 32)))

/-- R98: the verdict is INVALID for exactly the words with bits 63:62 = 11, and the operation they select, none, is refused by
name in every state. Choices it rests on: the binary form of a request, and RESET as a sideband (D4, log entry 12); op = 11
selects no operation and is refused by name (D17, log entry 2). -/
def Obligations.ReservedSelectorIsRefused : Prop :=
  (∀ w : Req, verdictOf w = .invalid ↔ w.extractLsb' 62 2 = 0b11#2) ∧
  (∀ w : Req, decodeReq w = .rsvd ↔ w.extractLsb' 62 2 = 0b11#2) ∧
  (∀ s : State, exec .rsvd s = .refused .reservedSelector)

/-- Request words of 95_test_vectors.md (S4, V3, V5, P1, P3) decode to what stands beside them there (R91, R92, R98). Choices
it rests on: the binary form of a request, and RESET as a sideband (D4, log entry 12); op = 11 selects no operation and is
refused by name (D17, log entry 2). -/
def Obligations.WordsOfTheSpecDecode : Prop :=
  decodeReq 0x40400041AABBCCDD#64 = .write 0x041 0xAABBCCDD#32 0x01 ∧
  decodeReq 0x7D00004100000000#64 = .write 0x041 0x00000000#32 0xF4 ∧
  decodeReq 0x7FFFFFFFFFFFFFFF#64 = .write 0x3FFFFF 0xFFFFFFFF#32 0xFF ∧
  decodeReq 0x43C0022E00000001#64 = .write 0x22E 0x00000001#32 0x0F ∧
  decodeReq 0x3FC00041FFFFFFFF#64 = .read 0x041 ∧
  decodeReq 0x0000030000000000#64 = .read 0x300 ∧
  decodeReq 0x8000022E00000000#64 = .name 0x22E ∧
  decodeReq 0xC000000000000000#64 = .rsvd ∧
  Input.rst.decode = .reset

/-- R101, R102, R9: example lines, with numbers in the three notations, field names, offsets and pseudo-operations, read as
the operations they stand for, and a FIRE of no trigger as none. Choices it rests on: the notation (D18, log entry 19); a
write through a name is a whole-word WRITE (D25, log entry 10); fog_mode and tev_combiner_buffer_input name one word (D15, log
entry 18); the numbers of the register map are word offsets (conflict C1, log entry 18). -/
def Obligations.TextOfTheSpecReads : Prop :=
  parseLine "WRITE 0x041, 0xAABBCCDD, 0xA".toList = some (.write 0x041 0xAABBCCDD#32 0xA) ∧
  parseLine "WRITE 0x041, 0x00000000, 0b11110100".toList = some (.write 0x041 0x00000000#32 0xF4) ∧
  parseLine "READ  0x041".toList = some (.read 0x041) ∧
  parseLine "NAME 558".toList = some (.name 0x22E) ∧
  parseLine "SET num_vertices, 0x00000003".toList = some (.write 0x228 0x00000003#32 0xF) ∧
  parseLine "GET fog_mode".toList = some (.read 0x0E0) ∧
  parseLine "READ vertex_attributes+2".toList = some (.read 0x202) ∧
  parseLine "FIRE draw_trigger".toList = some (.write 0x22E 0x00000001#32 0xF) ∧
  parseLine "RESET".toList = some .reset ∧
  parseLine "FIRE cull_mode".toList = none

/-- R190: the block raises nothing. There is no fault and so no cause code; each of the four operations of R90 completes
normally in every state, on every operand; and only the reserved selector may be refused. That it is refused is
`ReservedSelectorIsRefused`, which rests on a decision; this does not. -/
def Obligations.EveryOperationCompletesNormally : Prop :=
  (∀ _ : Fault, False) ∧
  (∀ (i : Instr) (s : State), i ≠ .rsvd → ∃ t, exec i s = .next t) ∧
  (∀ (i : Instr) (s : State) (r : Refusal), exec i s = .refused r → i = .rsvd)

/-! ## The machine -/

/-- The model's form of the request interface (DESIGN CHOICE, log entry 4: a step takes the oldest issued input, `present`
puts one first) at the level of description of R6 and R69: one step performs the oldest issued input as decoded, completely,
on the state without it. Choices it rests on: issued inputs and answers stand as lists in the state (log entry 4); operations
are performed one at a time, in order, each as one step (D1, log entry 13); the binary form of a request, and RESET as a
sideband (D4, log entry 12). -/
def Obligations.StepRunsTheDecodedRequest : Prop :=
  (∀ (s : State) (x : Input) (rest : List Input), s.inputs = x :: rest →
    step s = exec x.decode { s with inputs := rest }) ∧
  (∀ (s : State) (i : Instr), i.WellFormed → step (s.present (encode i)) = exec i s)

/-- R190, R74, R71, R98: no step faults, and the only request a step refuses is one with the reserved selector: every other
one completes normally in that one step, taking exactly itself from what is waiting; with nothing issued nothing changes (the
idle step is the model's, log entry 4). Choices it rests on: issued inputs and answers stand as lists in the state (log entry
4); operations are performed one at a time, in order, each as one step (D1, log entry 13); the binary form of a request, and
RESET as a sideband (D4, log entry 12); op = 11 selects no operation and is refused by name (D17, log entry 2). -/
def Obligations.StepStopsOnlyOnTheReservedSelector : Prop :=
  ∀ s : State,
    (∃ t, step s = .next t ∧
      ((s.inputs = [] ∧ t = s) ∨ ∃ x, s.inputs = x :: t.inputs ∧ x.decode ≠ .rsvd)) ∨
    (step s = .refused .reservedSelector ∧
      ∃ w rest, s.inputs = .request w :: rest ∧ w.extractLsb' 62 2 = 0b11#2)

/-- R70, R154, R8, R69: a whole run. From every state whose issued inputs all select an operation, as many steps as inputs
perform them all; the event of the n-th is there exactly when it writes a trigger, with the store after the first n as its
snapshot; the answers are in request order, each from the store the earlier ones left. Choices it rests on: operations are
performed one at a time, in order, each as one step (D1, log entry 13); a trigger WRITE stores and dispatches in one step (D2,
log entry 13); a trigger WRITE whose mask selects no lane dispatches (D10, log entry 3); an event of every kind is its kind
with the whole store, in an append-only trace (D11, log entry 16); RESET dispatches nothing and leaves the trace (D23, log
entry 16); op = 11 selects no operation and is refused by name (D17, log entry 2); issued inputs and answers stand as lists in
the state (log entry 4). -/
def Obligations.RunPerformsRequestsInOrder : Prop :=
  ∀ s : State, Valid s.inputs →
    ∃ t, Host.Core.run core s.inputs.length s = .next t ∧ t.inputs = [] ∧
      t.regs = storeAfter s.regs (s.inputs.map Input.decode) ∧
      t.out = s.out ++ eventsOf s.regs (s.inputs.map Input.decode) ∧
      t.responses = s.responses ++ answersOf s.regs (s.inputs.map Input.decode)

/-- R69, R125, R176: a READ returns the value left by the latest earlier WRITE to that index, lane by lane, or by the latest
RESET, or else what was there. Any list of requests, then a READ of any index in range. Choices it rests on: operations are
performed one at a time, in order, each as one step (D1, log entry 13); which lane mask bits 1 to 3 govern (D7, log entry 6);
op = 11 selects no operation and is refused by name (D17, log entry 2); issued inputs and answers stand as lists in the state
(log entry 4). -/
def Obligations.ReadReturnsTheLatestWrite : Prop :=
  ∀ (s : State) (w : Req) (before : List Input) (j : Nat),
    s.inputs = before ++ [.request w] → Valid before → decodeReq w = .read j → j < 0x300 →
    ∃ (t : State) (v : Word), Host.Core.run core s.inputs.length s = .next t ∧
      t.responses.getLast? = some (.rdata v) ∧
      ∀ k, k < 4 → lane v k = latestLane j k (lane (s.regs.read j) k) (before.map Input.decode)

/-- R230: the final store is exactly what 0x300 further READs would answer. Choices it rests on: operations are performed one
at a time, in order, each as one step (D1, log entry 13); the binary form of a request, and RESET as a sideband (D4, log entry
12); issued inputs and answers stand as lists in the state (log entry 4). -/
def Obligations.FinalStoreIsWhatReadsAnswer : Prop :=
  ∀ s : State, s.inputs = (List.range 0x300).map (fun i => encode (.read i)) →
    ∃ t, Host.Core.run core s.inputs.length s = .next t ∧ t.regs = s.regs ∧ t.out = s.out ∧
      t.responses = s.responses ++ (List.range 0x300).map (fun i => .rdata (s.regs.word i))

/-- An invariant every step keeps (R20, R69, R70): the history from any earlier state. What is left to do is the rest of what
was issued, and store, trace and answers are what the requests performed so far make them, in their order. Every state starts
it, with nothing performed. Choices it rests on: operations are performed one at a time, in order, each as one step (D1, log
entry 13); a trigger WRITE stores and dispatches in one step (D2, log entry 13); a trigger WRITE whose mask selects no lane
dispatches (D10, log entry 3); an event of every kind is its kind with the whole store, in an append-only trace (D11, log
entry 16); RESET dispatches nothing and leaves the trace (D23, log entry 16); issued inputs and answers stand as lists in the
state (log entry 4). -/
def Obligations.StepKeepsTheHistory : Prop :=
  (∀ s : State, HistoryOf s s) ∧
  (∀ s₀ s s' : State, HistoryOf s₀ s → step s = .next s' → HistoryOf s₀ s')

/-- R69, R40, R221: a word that no WRITE has been issued to since creation still reads its reset value, and so does every
snapshot handed out: from creation with any inputs issued, after any number of steps that complete. Choices it rests on:
operations are performed one at a time, in order, each as one step (D1, log entry 13); the reset value is zero (D3, log entry
1); the state at creation is the reset state (D24, log entry 1); an event of every kind is its kind with the whole store, in
an append-only trace (D11, log entry 16); issued inputs and answers stand as lists in the state (log entry 4). -/
def Obligations.UnwrittenWordsReadTheResetValue : Prop :=
  ∀ (xs : List Input) (n : Nat) (t : State) (j : Nat),
    Host.Core.run core n { State.reset with inputs := xs } = .next t →
    (∀ x ∈ xs, ∀ v m, x.decode ≠ .write j v m) →
    t.regs.read j = 0x00000000#32 ∧ ∀ e ∈ t.out, e.snap.read j = 0x00000000#32

/-- An invariant every step keeps: the store, and every snapshot handed out, stay in canonical form. The form is the model's
way of holding the array of R20 and the snapshots of R38: indices strictly rising and in range, no word listed twice, none
listed that an unlisted index would read as. Choices it rests on: the canonical form of the store (log entry 11); an event of
every kind is its kind with the whole store, in an append-only trace (D11, log entry 16). -/
def Obligations.StepKeepsTheCanonicalForm : Prop :=
  ∀ s s' : State, s.wf → step s = .next s' → s'.wf

/-- The canonical form is one: two stores in it that hold the same 0x300 words are the same data, so no word is kept twice and
nothing else is kept. The form is the model's own choice (DESIGN CHOICE, log entry 11), by which it holds the one array of R20
and R21. Choices it rests on: the canonical form of the store (log entry 11). -/
def Obligations.EqualWordsMeanEqualStores : Prop :=
  ∀ a b : Store, a.wf → b.wf → (∀ i, i < 0x300 → a.read i = b.read i) → a = b

/-- R38, R71, R154, R195, R222: what has been forwarded and what has been answered stay: no step removes or alters any of it,
RESET included, and a step adds at most one event and one answer. Choices it rests on: operations are performed one at a time,
in order, each as one step (D1, log entry 13); an event of every kind is its kind with the whole store, in an append-only
trace (D11, log entry 16); RESET dispatches nothing and leaves the trace (D23, log entry 16); issued inputs and answers stand
as lists in the state (log entry 4). -/
def Obligations.ForwardedEventsStay : Prop :=
  ∀ s s' : State, step s = .next s' →
    (∃ es, s'.out = s.out ++ es ∧ es.length ≤ 1) ∧ (∃ rs, s'.responses = s.responses ++ rs ∧ rs.length ≤ 1)

/-- R77, R123, R128, R176: only a WRITE at that index, in range, and RESET can change a word. Choices it rests on: operations
are performed one at a time, in order, each as one step (D1, log entry 13); no collaborator writes the store (D20, log entry
14); issued inputs and answers stand as lists in the state (log entry 4). -/
def Obligations.OnlyWriteOrResetChangesAWord : Prop :=
  ∀ (s s' : State) (j : Nat), step s = .next s' → s'.regs.read j ≠ s.regs.read j →
    j < 0x300 ∧ ∃ x, s.inputs = x :: s'.inputs ∧
      (x.decode = .reset ∨ ∃ v m, x.decode = .write j v m)

/-- R151, R192, R193, R195: the interrupt controller is handed an event exactly by WRITEs at 0x010 and no register value can
suppress it: from every state, whatever the store holds, one step with such a WRITE delivers one interrupt event and no draw.
Choices it rests on: operations are performed one at a time, in order, each as one step (D1, log entry 13); a trigger WRITE
stores and dispatches in one step (D2, log entry 13); a trigger WRITE whose mask selects no lane dispatches (D10, log entry
3); an event of every kind is its kind with the whole store, in an append-only trace (D11, log entry 16); issued inputs and
answers stand as lists in the state (log entry 4). -/
def Obligations.InterruptCannotBeSuppressed : Prop :=
  ∀ (s : State) (x : Input) (rest : List Input) (v : Word) (m : Nat),
    s.inputs = x :: rest → x.decode = .write 0x010 v m →
    ∃ t e, step s = .next t ∧ t.deliveredTo .interruptController = s.deliveredTo .interruptController ++ [e] ∧
      e.kind = .irq ∧ t.deliveredTo .commandProcessor = s.deliveredTo .commandProcessor

/-- Isolation of one word (R20, R122, R123, R154): two runs of the same requests, none of them a READ at j, from states that
look alike but for word j, give the same answers, events of the same kinds in the same order, and stores and snapshots that
differ at most at j. Choices it rests on: operations are performed one at a time, in order, each as one step (D1, log entry
13); a trigger WRITE stores and dispatches in one step (D2, log entry 13); a trigger WRITE whose mask selects no lane
dispatches (D10, log entry 3); an event of every kind is its kind with the whole store, in an append-only trace (D11, log
entry 16); op = 11 selects no operation and is refused by name (D17, log entry 2); undocumented words are plain storage (D26,
log entry 15); issued inputs and answers stand as lists in the state (log entry 4). -/
def Obligations.UnreadWordDoesNotLeak : Prop :=
  ∀ (j : Nat) (s t : State), LooksAlikeOff j s t → Valid s.inputs → (∀ x ∈ s.inputs, x.decode ≠ .read j) →
    ∃ s' t', Host.Core.run core s.inputs.length s = .next s' ∧ Host.Core.run core t.inputs.length t = .next t' ∧
      LooksAlikeOff j s' t'

/-- R72, R70 (derived there): the producer/consumer design forwards what the synchronous one does. Whatever the interleaving
of issuing and consuming, once the channel is drained the trace and the store are those of performing the issued WRITEs at
once, one after the other. Choices it rests on: operations are performed one at a time, in order, each as one step (D1, log
entry 13); a trigger WRITE stores and dispatches in one step (D2, log entry 13); a trigger WRITE whose mask selects no lane
dispatches (D10, log entry 3); an event of every kind is its kind with the whole store, in an append-only trace (D11, log
entry 16); in that design a WRITE and its event are one entry of a channel without bound (log entry 13). -/
def Obligations.ChannelDesignForwardsTheSame : Prop :=
  ∀ (ms : List ChannelMove) (c : ChannelState) (s : State),
    c.channel = [] → s.regs = c.regs → s.out = c.out →
    ∃ t, performAll ((issued ms).map Posted.toInstr) s = .next t ∧
      (c.moves ms).drain.regs = t.regs ∧ (c.moves ms).drain.out = t.out ∧ (c.moves ms).drain.channel = []
end

