-- ==== Sys2Proof/Laws/Operands.lean ====
section
/-! SUPPORT. What EXPAND, COMBINE and the lanes do, bit by bit and lane by lane (R120, R121, R125). -/

namespace Sys2Proof.Machine

theorem maskNibble_lt (m : Nat) : maskNibble m < 16 := Nat.lt_of_le_of_lt Nat.and_le_right (by decide)

theorem maskNibble_testBit (m k : Nat) (hk : k < 4) : (maskNibble m).testBit k = m.testBit k := by
  have h : (15 : Nat).testBit k = true := by revert k; decide
  rw [maskNibble, Nat.testBit_and, h, Bool.and_true]

/-- Only the low four mask bits matter (R93). -/
theorem maskNibble_idem (m : Nat) : maskNibble (maskNibble m) = maskNibble m := by
  simp [maskNibble]

@[simp] theorem expand_nibble (m : Nat) : expand (maskNibble m) = expand m := by
  simp only [expand, maskNibble_idem]

/-- Bit `j` of the expanded mask is mask bit `j / 8` (R120). -/
theorem expand_bit (m j : Nat) (hj : j < 32) : (expand m).getLsbD j = m.testBit (j / 8) := by
  have table : ∀ n, n < 16 → ∀ j, j < 32 → (expandTable.getD n 0).getLsbD j = n.testBit (j / 8) := by decide
  rw [expand, table _ (maskNibble_lt m) j hj, maskNibble_testBit m _ (by omega)]

/-- Bit `j` of a combination comes from the new word where the mask has a 1, else from the old one (R121). -/
theorem combine_bit (old v e : Word) (j : Nat) :
    (combine old v e).getLsbD j = if e.getLsbD j then v.getLsbD j else old.getLsbD j := by
  by_cases hj : j < 32
  · simp only [combine, BitVec.getLsbD_or, BitVec.getLsbD_and, BitVec.getLsbD_not, hj]
    cases e.getLsbD j <;> simp
  · have out : ∀ w : Word, w.getLsbD j = false := fun w => BitVec.getLsbD_of_ge w j (by omega)
    simp [out]

/-- Bit `j` of lane `k`. -/
theorem lane_bit (w : Word) (k j : Nat) : (lane w k).getLsbD j = (decide (j < 8) && w.getLsbD (8 * k + j)) := by
  simp [lane, BitVec.getLsbD_extractLsb']

/-- A word is its four lanes. -/
theorem word_eq_of_lanes {a b : Word} (h : ∀ k, k < 4 → lane a k = lane b k) : a = b := by
  apply BitVec.eq_of_getLsbD_eq
  intro j hj
  have hk := congrArg (fun x : Byte => BitVec.getLsbD x (j % 8)) (h (j / 8) (by omega))
  have hlt : j % 8 < 8 := by omega
  have heq : 8 * (j / 8) + j % 8 = j := by omega
  simp only [lane_bit, hlt, heq, decide_true, Bool.true_and] at hk
  exact hk

/-- The masked combination, bit by bit: mask bit `j / 8` chooses (R125). -/
theorem combine_expand_bit (old v : Word) (m j : Nat) (hj : j < 32) :
    (combine old v (expand m)).getLsbD j = if m.testBit (j / 8) then v.getLsbD j else old.getLsbD j := by
  rw [combine_bit, expand_bit m j hj]

/-- A mask that selects no lane keeps the old word. -/
theorem combine_expand_none (old v : Word) (m : Nat) (h : maskNibble m = 0) : combine old v (expand m) = old := by
  apply BitVec.eq_of_getLsbD_eq
  intro j hj
  rw [combine_expand_bit old v m j hj, ← maskNibble_testBit m _ (by omega), h]
  simp

/-- A mask that selects all lanes gives the new word. -/
theorem combine_expand_all (old v : Word) (m : Nat) (h : maskNibble m = 15) : combine old v (expand m) = v := by
  have all : ∀ k, k < 4 → (15 : Nat).testBit k = true := by decide
  apply BitVec.eq_of_getLsbD_eq
  intro j hj
  rw [combine_expand_bit old v m j hj, ← maskNibble_testBit m _ (by omega), h, all _ (by omega)]
  simp

end Sys2Proof.Machine
end

