-- ==== Sys2Proof/Laws/Store.lean ====
section
/-! SUPPORT. The laws of the store: read after write, every other word kept, the canonical form kept, and equal words mean
equal stores. None of the reading laws needs the canonical form. -/

namespace Sys2Proof.Machine

theorem Store.word_cons (c : Nat × Word) (rest : Store) (i : Nat) :
    Store.word (c :: rest) i = if c.1 = i then c.2 else Store.word rest i := rfl

@[simp] theorem Store.word_nil (i : Nat) : Store.word [] i = Config.resetImage i := rfl

@[simp] theorem Store.word_image (i : Nat) : Store.image.word i = Config.resetImage i := rfl

theorem Store.word_of_unlisted {st : Store} {i : Nat} (h : ∀ c ∈ st, c.1 ≠ i) : st.word i = Config.resetImage i := by
  induction st with
  | nil => rfl
  | cons c rest ih =>
    rw [Store.word_cons, if_neg (h c (by simp)), ih (fun d hd => h d (by simp [hd]))]

theorem Store.mem_erase {st : Store} {i : Nat} {c : Nat × Word} : c ∈ st.erase i ↔ c ∈ st ∧ c.1 ≠ i := by
  simp [Store.erase]

theorem Store.word_erase_self (st : Store) (i : Nat) : (st.erase i).word i = Config.resetImage i :=
  Store.word_of_unlisted (fun _ hc => (Store.mem_erase.mp hc).2)

theorem Store.word_erase_other (st : Store) {i j : Nat} (h : j ≠ i) : (st.erase i).word j = st.word j := by
  induction st with
  | nil => rfl
  | cons c rest ih =>
    by_cases hc : c.1 = i
    · have e : Store.erase (c :: rest) i = Store.erase rest i := by simp [Store.erase, hc]
      rw [e, ih, Store.word_cons, if_neg (by omega)]
    · have e : Store.erase (c :: rest) i = c :: Store.erase rest i := by simp [Store.erase, hc]
      rw [e, Store.word_cons, Store.word_cons, ih]

theorem Store.word_insert_self {st : Store} {i : Nat} (v : Word) (h : ∀ c ∈ st, c.1 ≠ i) :
    (st.insert i v).word i = v := by
  induction st with
  | nil => simp [Store.insert, Store.word_cons]
  | cons c rest ih =>
    by_cases hc : c.1 < i
    · rw [Store.insert, if_pos hc, Store.word_cons, if_neg (h c (by simp)), ih (fun d hd => h d (by simp [hd]))]
    · rw [Store.insert, if_neg hc, Store.word_cons, if_pos rfl]

theorem Store.word_insert_other (st : Store) {i j : Nat} (v : Word) (h : j ≠ i) :
    (st.insert i v).word j = st.word j := by
  induction st with
  | nil => simp [Store.insert, Store.word_cons, h.symm]
  | cons c rest ih =>
    by_cases hc : c.1 < i
    · rw [Store.insert, if_pos hc, Store.word_cons, Store.word_cons, ih]
    · rw [Store.insert, if_neg hc, Store.word_cons, if_neg h.symm]

/-- The word just written is the word read (R23). -/
theorem Store.word_set_self (st : Store) {i : Nat} (v : Word) (hi : i < Config.numRegs) : (st.set i v).word i = v := by
  unfold Store.set
  rw [if_pos hi]
  split
  · rename_i hv
    rw [Store.word_erase_self, hv]
  · exact Store.word_insert_self v (fun _ hc => (Store.mem_erase.mp hc).2)

/-- Every other word is kept (R124, frame). -/
theorem Store.word_set_other (st : Store) {i j : Nat} (v : Word) (h : j ≠ i) : (st.set i v).word j = st.word j := by
  unfold Store.set
  split
  · split
    · exact Store.word_erase_other st h
    · rw [Store.word_insert_other _ v h, Store.word_erase_other st h]
  · rfl

/-- An index out of range stores nothing (R67). -/
theorem Store.set_out_of_range (st : Store) {i : Nat} (v : Word) (hi : ¬ i < Config.numRegs) : st.set i v = st := by
  rw [Store.set, if_neg hi]

theorem Store.read_in_range (st : Store) {i : Nat} (hi : i < Config.numRegs) : st.read i = st.word i := by
  rw [Store.read, if_pos hi]

theorem Store.read_out_of_range (st : Store) {i : Nat} (hi : ¬ i < Config.numRegs) : st.read i = Config.oorRead := by
  rw [Store.read, if_neg hi]

theorem Store.read_set_self (st : Store) {i : Nat} (v : Word) (hi : i < Config.numRegs) : (st.set i v).read i = v := by
  rw [Store.read_in_range _ hi, Store.word_set_self st v hi]

theorem Store.read_set_other (st : Store) {i j : Nat} (v : Word) (h : j ≠ i) : (st.set i v).read j = st.read j := by
  by_cases hj : j < Config.numRegs
  · rw [Store.read_in_range _ hj, Store.read_in_range _ hj, Store.word_set_other st v h]
  · rw [Store.read_out_of_range _ hj, Store.read_out_of_range _ hj]

/-- What a masked write leaves in its own word (R123). -/
theorem Store.read_writeMasked_self (st : Store) {i : Nat} (v : Word) (m : Nat) (hi : i < Config.numRegs) :
    (st.writeMasked i v m).read i = combine (st.read i) v (expand m) :=
  Store.read_set_self st _ hi

/-- What a masked write leaves everywhere else (R124, frame). -/
theorem Store.read_writeMasked_other (st : Store) {i j : Nat} (v : Word) (m : Nat) (h : j ≠ i) :
    (st.writeMasked i v m).read j = st.read j :=
  Store.read_set_other st _ h

theorem Store.writeMasked_out_of_range (st : Store) {i : Nat} (v : Word) (m : Nat) (hi : ¬ i < Config.numRegs) :
    st.writeMasked i v m = st :=
  Store.set_out_of_range st _ hi

/-- Only `mask & 0xF` matters (R93). -/
theorem Store.writeMasked_nibble (st : Store) (i : Nat) (v : Word) (m : Nat) :
    st.writeMasked i v (maskNibble m) = st.writeMasked i v m := by
  simp [Store.writeMasked]

theorem Store.image_wf : Store.image.wf := ⟨List.Pairwise.nil, fun _ hc => absurd hc List.not_mem_nil⟩

theorem Store.erase_wf {st : Store} (h : st.wf) (i : Nat) : (st.erase i).wf :=
  ⟨h.1.filter _, fun c hc => h.2 c (Store.mem_erase.mp hc).1⟩

theorem Store.mem_insert {st : Store} {i : Nat} {v : Word} {c : Nat × Word} :
    c ∈ st.insert i v ↔ c = (i, v) ∨ c ∈ st := by
  induction st with
  | nil => simp [Store.insert]
  | cons d rest ih =>
    unfold Store.insert
    split
    · simp only [List.mem_cons, ih]; tauto
    · simp only [List.mem_cons]

theorem Store.insert_wf {st : Store} (h : st.wf) {i : Nat} {v : Word} (hi : i < Config.numRegs)
    (hv : v ≠ Config.resetImage i) (hfresh : ∀ c ∈ st, c.1 ≠ i) : (st.insert i v).wf := by
  refine ⟨?_, ?_⟩
  · have sorted := h.1
    clear h
    induction st with
    | nil => simp [Store.insert]
    | cons d rest ih =>
      have hd := List.pairwise_cons.mp sorted
      unfold Store.insert
      split
      · rename_i hlt
        refine List.pairwise_cons.mpr ⟨?_, ih (fun c hc => hfresh c (by simp [hc])) hd.2⟩
        intro c hc
        rcases Store.mem_insert.mp hc with rfl | hc
        · exact hlt
        · exact hd.1 c hc
      · rename_i hge
        have hne := hfresh d (by simp)
        refine List.pairwise_cons.mpr ⟨?_, sorted⟩
        intro c hc
        rcases List.mem_cons.mp hc with rfl | hc
        · show i < c.1
          omega
        · have := hd.1 c hc
          show i < c.1
          omega
  · intro c hc
    rcases Store.mem_insert.mp hc with rfl | hc
    · exact ⟨hi, hv⟩
    · exact h.2 c hc

/-- Every write of the store keeps the canonical form. -/
theorem Store.set_wf {st : Store} (h : st.wf) (i : Nat) (v : Word) : (st.set i v).wf := by
  unfold Store.set
  split
  · split
    · exact Store.erase_wf h i
    · rename_i hi hv
      exact Store.insert_wf (Store.erase_wf h i) hi hv (fun _ hc => (Store.mem_erase.mp hc).2)
  · exact h

theorem Store.writeMasked_wf {st : Store} (h : st.wf) (i : Nat) (v : Word) (m : Nat) : (st.writeMasked i v m).wf :=
  Store.set_wf h i _

/-- In canonical form, a listed index is exactly one whose word is not the reset image. -/
theorem Store.word_of_listed {st : Store} (h : st.wf) {c : Nat × Word} (hc : c ∈ st) : st.word c.1 = c.2 := by
  induction st with
  | nil => simp at hc
  | cons d rest ih =>
    have hd := List.pairwise_cons.mp h.1
    rcases List.mem_cons.mp hc with rfl | hc
    · rw [Store.word_cons, if_pos rfl]
    · have := hd.1 c hc
      rw [Store.word_cons, if_neg (by omega), ih ⟨hd.2, fun e he => h.2 e (by simp [he])⟩ hc]

/-- Of two canonical stores that hold the same words, one lists nothing that the other does not. -/
theorem Store.listed_of_same_words {a b : Store} (ha : a.wf) (hb : b.wf)
    (h : ∀ i, i < Config.numRegs → a.word i = b.word i) {c : Nat × Word} (hc : c ∈ a) : c ∈ b := by
  have hw : b.word c.1 = c.2 := (h c.1 (ha.2 c hc).1).symm.trans (Store.word_of_listed ha hc)
  by_cases hl : ∃ d ∈ b, d.1 = c.1
  · obtain ⟨d, hd, hk⟩ := hl
    have hdw := Store.word_of_listed hb hd
    rw [hk, hw] at hdw
    have hdc : d = c := Prod.ext hk hdw.symm
    exact hdc ▸ hd
  · have hu := Store.word_of_unlisted (st := b) (i := c.1) (fun d hd hk => hl ⟨d, hd, hk⟩)
    exact absurd (hw.symm.trans hu) (ha.2 c hc).2

end Sys2Proof.Machine
end

