-- ==== Sys2Proof/Laws/ByteView.lean ====
section
/-! SUPPORT. The laws of the byte view (R62): a lane put into a word, one byte written, and when two views are the same. -/

namespace Sys2Proof.Machine

/-- Putting a byte into lane `k` changes that lane and no other. -/
theorem lane_setLane (w : Word) {k : Nat} (hk : k < 4) (b : Byte) {j : Nat} (hj : j < 4) :
    lane (setLane w k b) j = if j = k then b else lane w j := by
  apply BitVec.eq_of_getLsbD_eq
  intro x hx
  have ones : ∀ y, y < 32 → (0xFF#32).getLsbD y = decide (y < 8) := by decide
  rw [lane_bit, setLane, combine_bit]
  by_cases h : j = k
  · subst h
    have h1 : ¬ 8 * j + x < 8 * j := by omega
    have h2 : 8 * j + x - 8 * j = x := by omega
    have h3 : 8 * j + x < 32 := by omega
    have h4 : x < 32 := by omega
    simp only [BitVec.getLsbD_shiftLeft, BitVec.getLsbD_setWidth, h1, h2, h3, h4, ones x h4, hx, decide_true,
      decide_false, Bool.not_false, Bool.true_and, if_true]
  · have h3 : 8 * j + x < 32 := by omega
    have h5 : ((0xFF#32) <<< (8 * k)).getLsbD (8 * j + x) = false := by
      by_cases h6 : 8 * j + x < 8 * k
      · simp only [BitVec.getLsbD_shiftLeft, h6, decide_true, Bool.not_true, Bool.and_false, Bool.false_and]
      · have h7 : ¬ 8 * j + x - 8 * k < 8 := by omega
        rw [BitVec.getLsbD_shiftLeft, ones _ (by omega)]
        simp only [h7, decide_false, Bool.and_false]
    rw [h5, if_neg h, lane_bit]
    simp only [hx, decide_true, Bool.true_and]
    rfl

/-- The word the byte write of lane `k` of word `i` leaves at any index. -/
theorem Store.word_setByte (st : Store) {i k : Nat} (hi : i < Config.numRegs) (hk : k < 4) (b : Byte) (j : Nat) :
    (st.setByte (4 * i + k) b).word j = if j = i then setLane (st.word i) k b else st.word j := by
  have h1 : (4 * i + k) / 4 = i := by omega
  have h2 : (4 * i + k) % 4 = k := by omega
  have h3 : 4 * i + k < Config.numRegs * 4 := by omega
  rw [Store.setByte, if_pos h3, h1, h2]
  by_cases h : j = i
  · rw [if_pos h, h, Store.word_set_self _ _ hi]
  · rw [if_neg h, Store.word_set_other _ _ h]

/-- Stores with the same lanes have the same byte view. -/
theorem Store.byte_eq_of_lanes {a b : Store}
    (h : ∀ j k, j < Config.numRegs → k < 4 → lane (a.word j) k = lane (b.word j) k) (x : Nat) : a.byte x = b.byte x := by
  unfold Store.byte
  by_cases hs : x < Config.numRegs * 4
  · rw [if_pos hs, if_pos hs, h _ _ (by omega) (Nat.mod_lt _ (by omega))]
  · rw [if_neg hs, if_neg hs]

/-- A byte write keeps the canonical form. -/
theorem Store.setByte_wf {st : Store} (h : st.wf) (a : Nat) (b : Byte) : (st.setByte a b).wf := by
  unfold Store.setByte
  split
  · exact Store.set_wf h _ _
  · exact h

/-- So does a write of several bytes. -/
theorem Store.memWrite_wf {st : Store} (h : st.wf) (a n v : Nat) : (st.memWrite a n v).wf := by
  induction n generalizing st a v with
  | zero => exact h
  | succ n ih => exact ih (Store.setByte_wf h _ _) _ _

/-- The `k`-th byte of a word as a number is its lane `k`. -/
theorem ofNat_byte_eq_lane (v : Word) (k : Nat) : BitVec.ofNat 8 (v.toNat / 2 ^ (8 * k)) = lane v k := by
  apply BitVec.eq_of_toNat_eq
  simp [lane, Nat.shiftRight_eq_div_pow]

end Sys2Proof.Machine
end

