-- ==== Sys2Proof/Laws/Decode.lean ====
section
/-! SUPPORT. The four fields of a packed request word are the four fields that were packed (R91). -/

namespace Sys2Proof

/-- The Bool check and the proposition are the same check. -/
theorem Instr.wellFormed_iff (i : Instr) : i.wellFormed = true ↔ i.WellFormed := by
  cases i <;> simp [Instr.wellFormed, Instr.WellFormed]

variable (op : BitVec 2) (mask8 : BitVec 8) (index : BitVec 22) (value : Word)

@[simp] theorem opField_packReq : opField (packReq op mask8 index value) = op := by
  apply BitVec.eq_of_getLsbD_eq
  intro j hj
  have h1 : ¬ 62 + j < 32 := by omega
  have h2 : ¬ 62 + j - 32 < 22 := by omega
  have h3 : ¬ 62 + j - 32 - 22 < 8 := by omega
  have h4 : 62 + j - 32 - 22 - 8 = j := by omega
  simp only [opField, packReq, BitVec.getLsbD_extractLsb', BitVec.getLsbD_append, hj, h1, h2, h3, h4, decide_true,
    Bool.true_and, if_false]

@[simp] theorem maskField_packReq : maskField (packReq op mask8 index value) = mask8 := by
  apply BitVec.eq_of_getLsbD_eq
  intro j hj
  have h1 : ¬ 54 + j < 32 := by omega
  have h2 : ¬ 54 + j - 32 < 22 := by omega
  have h3 : 54 + j - 32 - 22 < 8 := by omega
  have h4 : 54 + j - 32 - 22 = j := by omega
  simp only [maskField, packReq, BitVec.getLsbD_extractLsb', BitVec.getLsbD_append, hj, h1, h2, h4, decide_true,
    Bool.true_and, if_false]
  simp [hj]

@[simp] theorem indexField_packReq : indexField (packReq op mask8 index value) = index := by
  apply BitVec.eq_of_getLsbD_eq
  intro j hj
  have h1 : ¬ 32 + j < 32 := by omega
  have h4 : 32 + j - 32 = j := by omega
  simp only [indexField, packReq, BitVec.getLsbD_extractLsb', BitVec.getLsbD_append, hj, h1, h4, decide_true,
    Bool.true_and, if_false]
  simp

@[simp] theorem valueField_packReq : valueField (packReq op mask8 index value) = value := by
  apply BitVec.eq_of_getLsbD_eq
  intro j hj
  simp only [valueField, packReq, BitVec.getLsbD_extractLsb', BitVec.getLsbD_append, hj, Nat.zero_add, decide_true,
    Bool.true_and, if_true]

/-- A request word is its four fields. -/
theorem packReq_fields (w : Req) : packReq (opField w) (maskField w) (indexField w) (valueField w) = w := by
  apply BitVec.eq_of_getLsbD_eq
  intro j hj
  simp only [opField, maskField, indexField, valueField, packReq, BitVec.getLsbD_extractLsb', BitVec.getLsbD_append]
  by_cases h1 : j < 32
  · simp [h1]
  · by_cases h2 : j - 32 < 22
    · have e : 32 + (j - 32) = j := by omega
      simp [h1, h2, e]
    · by_cases h3 : j - 32 - 22 < 8
      · have e : 54 + (j - 32 - 22) = j := by omega
        simp [h1, h2, h3, e]
      · have e : 62 + (j - 32 - 22 - 8) = j := by omega
        have h5 : j - 32 - 22 - 8 < 2 := by omega
        simp [h1, h2, h3, h5, e]

end Sys2Proof
end

