-- ==== Sys2Proof/Laws/State.lean ====
section
/-! SUPPORT. One lemma for each field and each update of the state, true by `rfl`, so that no later proof unfolds a record
update. -/

namespace Sys2Proof.Machine

variable (s : State) (r : Response) (k : EventKind) (x : Input) (i : Nat) (v : Word) (m : Nat)

@[simp] theorem State.respond_regs : (s.respond r).regs = s.regs := rfl
@[simp] theorem State.respond_out : (s.respond r).out = s.out := rfl
@[simp] theorem State.respond_responses : (s.respond r).responses = s.responses ++ [r] := rfl
@[simp] theorem State.respond_inputs : (s.respond r).inputs = s.inputs := rfl

@[simp] theorem State.emit_regs : (s.emit k).regs = s.regs := rfl
@[simp] theorem State.emit_out : (s.emit k).out = s.out ++ [⟨k, s.regs⟩] := rfl
@[simp] theorem State.emit_responses : (s.emit k).responses = s.responses := rfl
@[simp] theorem State.emit_inputs : (s.emit k).inputs = s.inputs := rfl

@[simp] theorem State.store_regs : (s.store i v m).regs = s.regs.writeMasked i v m := rfl
@[simp] theorem State.store_out : (s.store i v m).out = s.out := rfl
@[simp] theorem State.store_responses : (s.store i v m).responses = s.responses := rfl
@[simp] theorem State.store_inputs : (s.store i v m).inputs = s.inputs := rfl

@[simp] theorem State.present_regs : (s.present x).regs = s.regs := rfl
@[simp] theorem State.present_out : (s.present x).out = s.out := rfl
@[simp] theorem State.present_responses : (s.present x).responses = s.responses := rfl
@[simp] theorem State.present_inputs : (s.present x).inputs = x :: s.inputs := rfl

@[simp] theorem State.snapshot_eq : s.snapshot = s.regs := rfl

@[simp] theorem State.reset_regs : State.reset.regs = [] := rfl
@[simp] theorem State.reset_out : State.reset.out = [] := rfl
@[simp] theorem State.reset_responses : State.reset.responses = [] := rfl
@[simp] theorem State.reset_inputs : State.reset.inputs = [] := rfl

/-- Two states with the same four fields are the same state. -/
theorem State.eq_of_fields {s t : State} (hr : s.regs = t.regs) (ho : s.out = t.out)
    (ha : s.responses = t.responses) (hi : s.inputs = t.inputs) : s = t := by
  cases s; cases t; simp_all

end Sys2Proof.Machine
end

