-- ==== Sys2Proof/Laws/Ops.lean ====
section
/-! SUPPORT. What the shared operations over the state do, each said once: the trigger map (R150) and the dispatch (R156,
R157), the taking of an input (R69). -/

namespace Sys2Proof.Machine

/-- The trigger map, in full (R150). -/
theorem kindOf_eq_some {i : Nat} {k : EventKind} : kindOf i = some k ↔ i = k.triggerIndex := by
  unfold kindOf
  constructor
  · intro h
    split at h
    · cases h; assumption
    · split at h
      · cases h; assumption
      · split at h
        · cases h; assumption
        · cases h
  · rintro rfl
    cases k <;> rfl

theorem triggerIndex_lt (k : EventKind) : k.triggerIndex < Config.numRegs := by
  cases k <;> decide

/-- A trigger index is in range (R159). -/
theorem kindOf_in_range {i : Nat} {k : EventKind} (h : kindOf i = some k) : i < Config.numRegs :=
  kindOf_eq_some.mp h ▸ triggerIndex_lt k

theorem kindOf_out_of_range {i : Nat} (h : ¬ i < Config.numRegs) : kindOf i = none := by
  cases hk : kindOf i with
  | none => rfl
  | some k => exact absurd (kindOf_in_range hk) h

@[simp] theorem State.dispatch_regs (s : State) (i : Nat) : (s.dispatch i).regs = s.regs := by
  unfold State.dispatch; split <;> rfl

@[simp] theorem State.dispatch_responses (s : State) (i : Nat) : (s.dispatch i).responses = s.responses := by
  unfold State.dispatch; split <;> rfl

@[simp] theorem State.dispatch_inputs (s : State) (i : Nat) : (s.dispatch i).inputs = s.inputs := by
  unfold State.dispatch; split <;> rfl

/-- The dispatch appends one event with the store as it stands, or nothing (R154, R156, R157). -/
@[simp] theorem State.dispatch_out (s : State) (i : Nat) :
    (s.dispatch i).out = s.out ++ ((kindOf i).map (fun k => (⟨k, s.regs⟩ : Event))).toList := by
  unfold State.dispatch
  cases kindOf i <;> simp

/-- Taking an input: there is none, or it is the oldest one and nothing else changes. -/
theorem State.takeInput_cases (s : State) :
    (s.inputs = [] ∧ s.takeInput = none) ∨
    ∃ x rest, s.inputs = x :: rest ∧ s.takeInput = some (x, { s with inputs := rest }) := by
  unfold State.takeInput
  cases h : s.inputs with
  | nil => exact .inl ⟨rfl, rfl⟩
  | cons x rest => exact .inr ⟨x, rest, rfl, rfl⟩

end Sys2Proof.Machine
end

