-- ==== Sys2Proof/Laws/Exec.lean ====
section
/-! SUPPORT. Everything an operation can do, said once (`exec_eq_effect`), and everything a step can do (`step_cases`).
Later proofs cite these and never unfold a meaning. -/

namespace Sys2Proof.Machine

/-- The state an operation leaves, from its effects on the store, the trace and the answers. -/
def effectOf (i : Instr) (s : State) : State :=
  { regs := i.storeEffect s.regs
    out := s.out ++ (i.eventKind.map (fun k => (⟨k, i.storeEffect s.regs⟩ : Event))).toList
    responses := s.responses ++ (i.answer s.regs).toList
    inputs := s.inputs }

theorem exec_read (index : Nat) (s : State) :
    exec (.read index) s = .next { s with responses := s.responses ++ [.rdata (s.regs.read index)] } := rfl

theorem exec_name (index : Nat) (s : State) :
    exec (.name index) s = .next { s with responses := s.responses ++ [.nameId (nameOf index)] } := rfl

theorem exec_reset (s : State) : exec .reset s = .next { s with regs := Store.image } := rfl

theorem exec_rsvd (s : State) : exec .rsvd s = .refused .reservedSelector := rfl

theorem exec_write_in_range {index : Nat} (h : index < Config.numRegs) (value : Word) (mask : Nat) (s : State) :
    exec (.write index value mask) s = .next ((s.store index value mask).dispatch index) := by
  show execWrite index value mask s = _
  rw [execWrite, if_pos h]

theorem exec_write_out_of_range {index : Nat} (h : ¬ index < Config.numRegs) (value : Word) (mask : Nat) (s : State) :
    exec (.write index value mask) s = .next s := by
  show execWrite index value mask s = _
  rw [execWrite, if_neg h]

/-- Every operation but the reserved selector answers exactly its effect. -/
theorem exec_eq_effect {i : Instr} (h : i ≠ .rsvd) (s : State) : exec i s = .next (effectOf i s) := by
  cases i with
  | read index => simp [exec_read, effectOf, Instr.storeEffect, Instr.eventKind, Instr.answer]
  | name index => simp [exec_name, effectOf, Instr.storeEffect, Instr.eventKind, Instr.answer]
  | reset => simp [exec_reset, effectOf, Instr.storeEffect, Instr.eventKind, Instr.answer]
  | rsvd => exact absurd rfl h
  | write index value mask =>
    by_cases hr : index < Config.numRegs
    · rw [exec_write_in_range hr]
      congr 1
      apply State.eq_of_fields <;> simp [effectOf, Instr.storeEffect, Instr.eventKind, Instr.answer]
    · rw [exec_write_out_of_range hr]
      congr 1
      apply State.eq_of_fields <;>
        simp [effectOf, Instr.storeEffect, Instr.eventKind, Instr.answer, kindOf_out_of_range hr,
          Store.writeMasked_out_of_range _ _ _ hr]

/-- Everything a step can do: idle with nothing issued, the refusal of the reserved selector, or the effect of the oldest
issued input. -/
theorem step_cases (s : State) :
    (s.inputs = [] ∧ step s = .next s) ∨
    ∃ x rest, s.inputs = x :: rest ∧
      ((x.decode = .rsvd ∧ step s = .refused .reservedSelector) ∨
       (x.decode ≠ .rsvd ∧ step s = .next (effectOf x.decode { s with inputs := rest }))) := by
  unfold step
  rcases s.takeInput_cases with ⟨hi, ht⟩ | ⟨x, rest, hi, ht⟩
  · exact .inl ⟨hi, by rw [ht]⟩
  · refine .inr ⟨x, rest, hi, ?_⟩
    rw [ht]
    by_cases hx : x.decode = .rsvd
    · exact .inl ⟨hx, by simp only [hx, exec_rsvd]⟩
    · exact .inr ⟨hx, exec_eq_effect hx _⟩

end Sys2Proof.Machine
end

