-- ==== Sys2Proof/Laws/PerInstr.lean ====
section
/-! SUPPORT. Statements about every operation as data, one lemma for each constructor. -/

namespace Sys2Proof.Laws.EncodedSelector

/-- The encoding of an operation carries the selector that R92 gives it in bits 63:62, and the operation without a selector
is the one sent on the sideband (R103). -/
def Statement (i : Instr) : Prop :=
  match encode i with
  | .request w => i.selector = some (opField w)
  | .rst => i.selector = none

theorem read (index : Nat) : Statement (.read index) := by
  simp [Statement, encode, Instr.selector]

theorem write (index : Nat) (value : Word) (mask : Nat) : Statement (.write index value mask) := by
  simp [Statement, encode, Instr.selector]

theorem name (index : Nat) : Statement (.name index) := by
  simp [Statement, encode, Instr.selector]

theorem rsvd : Statement .rsvd := by
  simp [Statement, encode, Instr.selector]

theorem reset : Statement .reset := by
  simp [Statement, encode, Instr.selector]

end Sys2Proof.Laws.EncodedSelector
end

