-- ==== Sys2Proof/Laws/Traces.lean ====
section
/-! SUPPORT. How the store, the events and the answers of a list of operations compose: one operation first, and one list
after another. -/

namespace Sys2Proof.Machine

@[simp] theorem storeAfter_nil (st : Store) : storeAfter st [] = st := rfl

@[simp] theorem storeAfter_cons (st : Store) (i : Instr) (is : List Instr) :
    storeAfter st (i :: is) = storeAfter (i.storeEffect st) is := rfl

theorem storeAfter_append (st : Store) (a b : List Instr) :
    storeAfter st (a ++ b) = storeAfter (storeAfter st a) b := by
  simp [storeAfter]

@[simp] theorem eventsOf_nil (st : Store) : eventsOf st [] = [] := rfl

theorem eventsOf_cons (st : Store) (i : Instr) (is : List Instr) :
    eventsOf st (i :: is) =
      (i.eventKind.map (fun k => (⟨k, i.storeEffect st⟩ : Event))).toList ++ eventsOf (i.storeEffect st) is := by
  simp only [eventsOf, List.length_cons, List.range_succ_eq_map, List.filterMap_cons, List.filterMap_map]
  cases h : i.eventKind <;> simp [h]

theorem eventsOf_append (st : Store) (a b : List Instr) :
    eventsOf st (a ++ b) = eventsOf st a ++ eventsOf (storeAfter st a) b := by
  induction a generalizing st with
  | nil => rfl
  | cons i is ih => rw [List.cons_append, eventsOf_cons, eventsOf_cons, ih, storeAfter_cons, List.append_assoc]

@[simp] theorem answersOf_nil (st : Store) : answersOf st [] = [] := rfl

theorem answersOf_cons (st : Store) (i : Instr) (is : List Instr) :
    answersOf st (i :: is) = (i.answer st).toList ++ answersOf (i.storeEffect st) is := by
  simp only [answersOf, List.length_cons, List.range_succ_eq_map, List.filterMap_cons, List.filterMap_map]
  cases h : i.answer st <;> simp [h, Function.comp_def]

theorem answersOf_append (st : Store) (a b : List Instr) :
    answersOf st (a ++ b) = answersOf st a ++ answersOf (storeAfter st a) b := by
  induction a generalizing st with
  | nil => rfl
  | cons i is ih => rw [List.cons_append, answersOf_cons, answersOf_cons, ih, storeAfter_cons, List.append_assoc]

end Sys2Proof.Machine
end

