-- ==== Sys2Proof/Tests/Slice0.lean ====
section
/-! SUPPORT. Small tests, their expected results taken from spec/ and named beside them, and for every statement with
hypotheses a witness that meets them all together. -/

namespace Sys2Proof.Tests

open Sys2Proof.Machine

/-- The outcome is a next state that satisfies `p`. -/
def nextIs (o : Host.Outcome State Fault Refusal) (p : State → Bool) : Bool :=
  match o with
  | .next t => p t
  | .fault _ => false
  | .refused _ => false

/-- A small state that waits for `is` with the given words stored. -/
def sample (regs : Store) (is : List Instr) : State :=
  { regs := regs, out := [], responses := [], inputs := is.map encode }

/-! ## WellFormed refuses what does not fit (R93, R94) -/

theorem test_wellFormed_read_index : (Instr.read 0x400000).wellFormed = false := by decide
theorem test_wellFormed_write_index : (Instr.write 0x400000 0 0xF).wellFormed = false := by decide
theorem test_wellFormed_write_mask : (Instr.write 0x041 0 0x100).wellFormed = false := by decide
theorem test_wellFormed_name_index : (Instr.name 0x400000).wellFormed = false := by decide
theorem test_wellFormed_last : (Instr.write 0x3FFFFF 0xFFFFFFFF 0xFF).wellFormed = true := by decide

/-! ## Decoding, word by word (R91, R92; 95_test_vectors.md) -/

/-- V3: `READ 0x2FF`. Bits 63:62 = 00, 61:54 = 0, 53:32 = 0x2FF. -/
theorem test_decode_read : decodeReq 0x000002FF00000000#64 = .read 0x2FF := by decide
/-- V3: READ ignores `mask8` and `value`. -/
theorem test_decode_read_ignores : decodeReq 0x3FC00041FFFFFFFF#64 = .read 0x041 := by decide
/-- S4, with i = 0x041. -/
theorem test_decode_write : decodeReq 0x40400041AABBCCDD#64 = .write 0x041 0xAABBCCDD#32 0x01 := by decide
/-- P1 step 6: mask 0xF4 is carried whole. -/
theorem test_decode_write_mask8 : decodeReq 0x7D00004100000000#64 = .write 0x041 0x00000000#32 0xF4 := by decide
/-- P3 step 7. -/
theorem test_decode_name : decodeReq 0x8000022E00000000#64 = .name 0x22E := by decide
/-- V3: every word with bits 63:62 = 11 is INVALID. -/
theorem test_decode_rsvd : verdictOf 0xFFFFFFFFFFFFFFFF#64 = .invalid ∧ decodeReq 0xC000000000000000#64 = .rsvd := by
  decide
/-- R103: the one-bit sideband at 1 is RESET, and at 0 it is no event. -/
theorem test_decode_reset : decodeTableWord 1 1 = some .reset ∧ decodeTableWord 8 1 = some .reset ∧
    decodeBits 1 0 = .error .rstLow := by exact ⟨rfl, rfl, rfl⟩
/-- R100: there is one request length. -/
theorem test_decode_length : decodeBits 32 0 = .error (.wrongLength 32) := rfl
/-- The table's numbering: the rows' own match words. -/
theorem test_decode_table : decodeTableWord 64 0x8000000000000000 = some (.name 0) := by decide
/-- V5 row 5 and P2 step 3, encoded. -/
theorem test_encode_write : encode (.write 0x22E 0x00000001 0xF) = .request 0x43C0022E00000001#64 := by decide

/-! ## EXPAND and COMBINE -/

/-- V1, all rows. -/
theorem test_expand_V1 : ∀ r ∈ ([(0x0, 0x00000000), (0x1, 0x000000FF), (0x2, 0x0000FF00), (0x3, 0x0000FFFF), (0x4, 0x00FF0000),
      (0x5, 0x00FF00FF), (0x6, 0x00FFFF00), (0x7, 0x00FFFFFF), (0x8, 0xFF000000), (0x9, 0xFF0000FF),
      (0xA, 0xFF00FF00), (0xB, 0xFF00FFFF), (0xC, 0xFFFF0000), (0xD, 0xFFFF00FF), (0xE, 0xFFFFFF00),
      (0xF, 0xFFFFFFFF), (0x10, 0x00000000), (0x1F, 0xFFFFFFFF), (0xF0, 0x00000000), (0x13, 0x0000FFFF),
      (0xFFFFFFF5, 0x00FF00FF)] : List (Nat × Word)), expand r.1 = r.2 := by decide

/-- V2, all rows: old, value, mask, new. -/
theorem test_combine_V2 :
    ∀ r ∈ ([(0x12345678, 0xAABBCCDD, 0x01, 0x123456DD), (0x12345678, 0xAABBCCDD, 0x02, 0x1234CC78),
      (0x12345678, 0xAABBCCDD, 0x04, 0x12BB5678), (0x12345678, 0xAABBCCDD, 0x08, 0xAA345678),
      (0x12345678, 0xAABBCCDD, 0x00, 0x12345678), (0x12345678, 0xAABBCCDD, 0x0F, 0xAABBCCDD),
      (0x12345678, 0xAABBCCDD, 0x03, 0x1234CCDD), (0x12345678, 0xAABBCCDD, 0x0C, 0xAABB5678),
      (0x12345678, 0xAABBCCDD, 0x05, 0x12BB56DD), (0x12345678, 0xAABBCCDD, 0x1F, 0xAABBCCDD),
      (0x12345678, 0xAABBCCDD, 0xF0, 0x12345678), (0x12345678, 0xAABBCCDD, 0x0A, 0xAA34CC78),
      (0x12345678, 0xAABBCCDD, 0x06, 0x12BBCC78), (0x12345678, 0xAABBCCDD, 0x09, 0xAA3456DD),
      (0x12345678, 0xAABBCCDD, 0x07, 0x12BBCCDD), (0x12345678, 0xAABBCCDD, 0x0B, 0xAA34CCDD),
      (0x12345678, 0xAABBCCDD, 0x0D, 0xAABB56DD), (0x12345678, 0xAABBCCDD, 0x0E, 0xAABBCC78),
      (0x12345678, 0xAABBCCDD, 0x13, 0x1234CCDD), (0xFFFFFFFF, 0x00000000, 0x06, 0xFF0000FF),
      (0x00000000, 0xFFFFFFFF, 0x09, 0xFF0000FF), (0x12345678, 0x12345678, 0x07, 0x12345678)] : List (Word × Word × Nat × Word)), combine r.1 r.2.1 (expand r.2.2.1) = r.2.2.2 := by decide

/-! ## One step of each operation, from the reset state or a small one -/

/-- V5 row 12: `READ 0x010` responds the stored word; no event. -/
theorem test_read : nextIs (step (sample [(0x010, 0xFFFFFFFF)] [.read 0x010]))
    (fun t => t.responses = [.rdata 0xFFFFFFFF] ∧ t.out = [] ∧ t.regs = [(0x010, 0xFFFFFFFF)]) = true := by decide
/-- V3 row 4: `READ 0x300` responds 0. -/
theorem test_read_out_of_range : nextIs (step (sample [(0x2FF, 7)] [.read 0x300]))
    (fun t => t.responses = [.rdata 0]) = true := by decide
/-- P1 step 3: mask 0xA stores lanes 1 and 3. -/
theorem test_write : nextIs (step (sample [(0x041, 0x123456DD)] [.write 0x041 0xAABBCCDD 0xA]))
    (fun t => t.regs = [(0x041, 0xAA34CCDD)] ∧ t.out = [] ∧ t.responses = []) = true := by decide
/-- V3 row 6: 0x62E is not 0x22E. -/
theorem test_write_out_of_range : nextIs (step (sample [(0x22E, 5)] [.write 0x62E 0xCAFEF00D 0xF]))
    (fun t => t = sample [(0x22E, 5)] []) = true := by decide
/-- P3 step 1. -/
theorem test_write_interrupt : nextIs (step (State.reset.withFetchWord 64 0x40C00010DEADBEEF))
    (fun t => t.regs = [(0x010, 0x0000BEEF)] ∧ t.out = [⟨.irq, [(0x010, 0x0000BEEF)]⟩]) = true := by decide
/-- P2 step 5: a trigger WRITE that selects no lane forwards its event (decision D10). -/
theorem test_write_indexed_draw_mask0 :
    nextIs (step (sample [(0x228, 7), (0x22E, 1)] [.write 0x22F 0 0x0]))
      (fun t => t.regs = [(0x228, 7), (0x22E, 1)] ∧ t.out = [⟨.drawIndexed, [(0x228, 7), (0x22E, 1)]⟩]) = true := by
  decide
/-- V5 row 13: the draw fires and word 0x22E keeps its value. -/
theorem test_write_draw : nextIs (step (State.reset.withFetchWord 64 0x4080022E000000AA))
    (fun t => t.regs = [] ∧ t.out = [⟨.draw, []⟩]) = true := by decide
/-- V5 row 8: word 0x230 is no trigger. -/
theorem test_write_beside_trigger : nextIs (step (State.reset.withFetchWord 64 0x43C0023000000001))
    (fun t => t.regs = [(0x230, 1)] ∧ t.out = []) = true := by decide
/-- P3 step 7, P4 step 5. -/
theorem test_name : nextIs (step (State.reset.withFetchWord 64 0x800000E000000000))
    (fun t => t.responses = [.nameId "tev_combiner_buffer_input"]) = true := by decide
/-- V6, other NAME vectors: an index out of range, and one inside a field. -/
theorem test_name_reserved : nameOf 0x3FFFFF = "reserved" ∧ nameOf 0x082 = "reserved" ∧ nameOf 0x2FF = "reserved" := by
  decide
/-- V5 row 14: RESET clears every word and leaves the trace. -/
theorem test_reset :
    nextIs (step ⟨[(0x22E, 1)], [⟨.draw, [(0x22E, 1)]⟩], [.rdata 3], [.rst]⟩)
      (fun t => t = ⟨[], [⟨.draw, [(0x22E, 1)]⟩], [.rdata 3], []⟩) = true := by decide
/-- R98: refused by name. -/
theorem test_rsvd : step (State.reset.withFetchWord 64 0xC000000000000000) = .refused .reservedSelector := rfl
/-- R230: with nothing issued nothing happens. -/
theorem test_idle : step State.reset = .next State.reset := rfl
/-- R97: the codes of the kinds. -/
theorem test_event_codes : [EventKind.irq, .draw, .drawIndexed].map EventKind.code = [0, 1, 2] := rfl

/-! ## The layout and the text -/

/-- R25 to R30, second column, in index order. -/
theorem test_byte_offsets : Field.all.map Field.byteOffset =
     [0x040, 0x100, 0x104, 0x10C, 0x134, 0x138, 0x140, 0x144,
      0x194, 0x1A0, 0x1B4] ++
     [0x200, 0x204, 0x238, 0x23C, 0x244, 0x258, 0x264, 0x278,
      0x2A0, 0x2A4, 0x2A8, 0x2AC, 0x2B0, 0x2B4, 0x2BC, 0x300,
      0x320, 0x340, 0x360, 0x380, 0x380, 0x384, 0x398, 0x3A0,
      0x3C0, 0x3E0, 0x3F4] ++
     [0x400, 0x440, 0x800, 0x89C, 0x8A0, 0x8A8, 0x8B8, 0x8BC,
      0x8C8, 0x8E0, 0x914, 0x978, 0x97C] := by decide
/-- R25 to R30, "largest possible extent": its last word. -/
theorem test_last_possible : Field.all.map Field.lastPossible =
     [0x03F, 0x040, 0x042, 0x04C, 0x04D, 0x04F, 0x050, 0x064,
      0x067, 0x06C, 0x07F] ++
     [0x080, 0x08D, 0x08E, 0x090, 0x095, 0x098, 0x09D, 0x0A7,
      0x0A8, 0x0A9, 0x0AA, 0x0AB, 0x0AC, 0x0AE, 0x0BF, 0x0C7,
      0x0CF, 0x0D7, 0x0DF, 0x0E0, 0x0E0, 0x0E5, 0x0E7, 0x0EF,
      0x0F7, 0x0FC, 0x0FF] ++
     [0x10F, 0x13F, 0x226, 0x227, 0x229, 0x22D, 0x22E, 0x231,
      0x237, 0x244, 0x25D, 0x25E, 0x27F] := by decide +kernel
/-- The canonical form: writing the reset image removes the entry. -/
theorem test_store_form : Store.set [(1, 5), (3, 7)] 3 0 = [(1, 5)] ∧ Store.set [(1, 5), (3, 7)] 2 9 = [(1, 5), (2, 9), (3, 7)] := by
  decide
/-- R62: the low byte lane is the byte at the lowest address. -/
theorem test_byte_view : Store.memRead [(0x001, 0x12345678)] 4 1 = some 0x78 ∧ Store.memRead [(0x001, 0x12345678)] 5 2 = some 0x3456 := by
  decide
/-- Past the end of the view a read is none as a whole and a write keeps its bytes inside (log entry 7). -/
theorem test_byte_view_end : Store.memRead [] 0xBFF 2 = none ∧ Store.memWrite [] 0xBFF 2 0x1234 = [(0x2FF, 0x34000000)] := by
  decide
/-- P1, P2: lines of text. -/
theorem test_text : parseLine "WRITE 0x228, 0x00000007, 0xF".toList = some (.write 0x228 7 0xF) ∧
    parseLine "FIRE indexed_draw_trigger".toList = some (.write 0x22F 1 0xF) ∧ parseLine "WRITE 0x228".toList = none := by
  decide
/-- R9: small hexadecimal letters, binary, and a digit outside its base. -/
theorem test_text_numbers : number "0xfD".toList = some 0xFD ∧ number "0b101".toList = some 5 ∧ number "0b102".toList = none ∧
    number "0x".toList = none ∧ number "1A".toList = none ∧ number "558".toList = some 0x22E := by decide
/-- The spaces the model drops and those it does not (log entry 19). -/
theorem test_text_spaces : parseLine " READ  vertex_attributes + 2 ".toList = some (.read 0x202) ∧
    parseLine "READ 0x 202".toList = none ∧ parseLine "READ 0X202".toList = none := by decide
/-- Log entry 19: a blank line is no request, and an empty text no list. -/
theorem test_text_blank : parseText [] = none ∧ parseText "RESET\n".toList = none := by decide
/-- R101: a whole list. -/
theorem test_text_lines : parseText "RESET\nGET vs_output_attributes[1]+1".toList = some [.reset, .read 0x052] := by decide

/-! ## Witnesses: for each statement with hypotheses, a concrete case that meets them all -/

theorem witness_ExpandIsTheMaskLoop : (3 : Nat) < 4 := by decide
theorem witness_CombineSelectsBitwise : (31 : Nat) < 32 ∧ (3 : Nat) < 4 ∧
    ∀ k, k < 4 → lane 0x00FF00FF k = if (5 : Nat).testBit k then 0xFF#8 else 0x00#8 := by decide
theorem witness_CombineUnderExpandIsLanewise : (3 : Nat) < 4 := by decide
theorem witness_StoreIsAnArray : (0x2FF : Nat) < 0x300 ∧ (0x300 : Nat) ≠ 0x2FF ∧ (0x300 : Nat) ≤ 0x300 := by decide
theorem witness_EveryOperationCompletesNormally :
    Instr.write 0x310 1 0 ≠ .rsvd ∧ exec .rsvd State.reset = .refused .reservedSelector := ⟨by decide, rfl⟩
theorem witness_ReadAnswers_in_range : (0x2FF : Nat) < 0x300 := by decide
theorem witness_ReadAnswers_out_of_range : ¬ (0x300 : Nat) < 0x300 := by decide
theorem witness_WriteStoresThenDispatches_in_range : (0x2FF : Nat) < 0x300 ∧ ¬ (0x300 : Nat) < 0x300 := by decide
theorem witness_WriteStoresThenDispatches_no_trigger :
    (0x230 : Nat) ≠ 0x010 ∧ (0x230 : Nat) ≠ 0x22E ∧ (0x230 : Nat) ≠ 0x22F := by decide
theorem witness_WriteEnablesLanesIndependently : (0x2FF : Nat) < 0x300 ∧ (3 : Nat) < 4 := by decide
theorem witness_WriteFrameInBytes : ∃ t, exec (.write 0x2FF 0xFF 0x1) State.reset = .next t ∧
    ¬ (∃ k, k < 4 ∧ (0x1 : Nat).testBit k = true ∧ (0xBFD : Nat) = 4 * 0x2FF + k) := by
  refine ⟨_, rfl, ?_⟩
  rintro ⟨k, hk, hb, he⟩
  have : k = 1 := by omega
  subst this
  exact absurd hb (by decide)
theorem witness_WriteFrameInBytes_out_of_range : ∃ t, exec (.write 0x300 0xFF 0x1) State.reset = .next t ∧
    ¬ (0x300 : Nat) < 0x300 := ⟨_, rfl, by decide⟩
theorem witness_WriteIsAByteViewWrite : (0x2FF : Nat) < 0x300 ∧ (3 : Nat) < 4 := by decide
theorem witness_NullAndFullMaskWrites : (0x2FF : Nat) < 0x300 := by decide
theorem witness_SameWriteTwiceStoresAsOnce : kindOf 0x22F = some .drawIndexed := rfl
theorem witness_LaterWriteWinsPerLane : (0x000 : Nat) < 0x300 ∧ (0 : Nat) < 4 := by decide
theorem witness_DisjointMasksCommuteOnTheStore : (0xF3 : Nat) &&& 0xFC &&& 0xF = 0 := by decide
theorem witness_OutOfRangeIsDefined : (0x300 : Nat) ≤ 0x300 := by decide
theorem witness_TriggerMapIsComplete_other : (0x310 : Nat) ≠ 0x010 ∧ (0x310 : Nat) ≠ 0x22E ∧ (0x310 : Nat) ≠ 0x22F := by
  decide
theorem witness_TriggerMapIsComplete_event :
    ∃ t, exec (.write 0x010 0 0) State.reset = .next t ∧ t.out ≠ State.reset.out :=
  ⟨_, rfl, by decide⟩
theorem witness_TriggerWriteCarriesTheUpdatedStore : (0x230 : Nat) = 0x230 ∨ (0x230 : Nat) = 0x231 := .inl rfl
theorem witness_OneEventPerTriggerWriteInOrder :
    (sample [] [.write 0x22E 1 0xF, .write 0x010 0 0]).inputs.map (fun x => x.decode.eventKind) =
      [EventKind.draw, .irq].map some := by decide
theorem witness_NameTableFollowsTheLayout :
    Field.cullMode ≠ .fogMode ∧ (∀ f : Field, f.offset ≠ 0x2FF) ∧ (0x2FF : Nat) ≠ 0x140 ∧ (0x2FF : Nat) ≠ 0x280 ∧
      (0x2FF : Nat) ≠ 0x2B0 := by
  refine ⟨by decide, fun f => ?_, by decide⟩
  cases f <;> decide
theorem witness_LayoutContractHolds : Field.offset .fogMode = Field.offset .tevCombinerBufferInput := rfl
theorem witness_RegionsPartitionTheIndexSpace : Region.first .high ≤ 0x2FF ∧ 0x2FF ≤ Region.last .high := by decide
theorem witness_ByteViewIsLittleEndian : (0x2FF : Nat) < 0x300 ∧ (3 : Nat) < 4 ∧ (0xC00 : Nat) ≤ 0xC00 := by decide
theorem witness_ResetRestoresTheImage : (0x2FF : Nat) < 0x300 := by decide
theorem witness_DecodeOfEncode : (Instr.write 0x3FFFFF 0xFFFFFFFF 0xFF).WellFormed :=
  (Instr.wellFormed_iff _).mp (by decide)
theorem witness_EncodeOfDecodedWrite : (0x7FFFFFFFFFFFFFFF#64).extractLsb' 62 2 = 0b01#2 := by decide
theorem witness_RequestWordIsPacked : (Instr.name 0x22E).WellFormed ∧ encode (.name 0x22E) = .request 0x8000022E00000000#64 :=
  ⟨(Instr.wellFormed_iff _).mp (by decide), by decide⟩
theorem witness_StepRunsTheDecodedRequest :
    (sample [] [.read 1, .reset]).inputs = encode (.read 1) :: [Input.rst] ∧ (Instr.read 1).WellFormed :=
  ⟨rfl, (Instr.wellFormed_iff _).mp (by decide)⟩
theorem witness_RunPerformsRequestsInOrder : Valid (sample [] [.write 0x228 3 0xF, .write 0x22E 1 0xF, .read 0x228]).inputs := by
  decide
theorem witness_ReadReturnsTheLatestWrite :
    (sample [] [.write 0x2FF 3 0xF, .reset, .read 0x2FF]).inputs =
      [encode (.write 0x2FF 3 0xF), .rst] ++ [.request 0x000002FF00000000#64] ∧
    Valid [encode (.write 0x2FF 3 0xF), .rst] ∧ decodeReq 0x000002FF00000000#64 = .read 0x2FF ∧ (0x2FF : Nat) < 0x300 := by
  decide
/-- A state with any list of inputs issued; its fields are what it was built from. -/
theorem inputs_mk (regs : Store) (xs : List Input) : (State.mk regs [] [] xs).inputs = xs := rfl
theorem witness_FinalStoreIsWhatReadsAnswer :
    (State.mk [(0x2FF, 7)] [] [] ((List.range 0x300).map (fun i => encode (.read i)))).inputs =
      (List.range 0x300).map (fun i => encode (.read i)) := inputs_mk _ _
theorem witness_StepKeepsTheHistory :
    HistoryOf (sample [] [.write 0x22E 1 0xF]) (sample [] [.write 0x22E 1 0xF]) ∧
    ∃ t, step (sample [] [.write 0x22E 1 0xF]) = .next t :=
  ⟨⟨[], rfl, rfl, rfl, rfl⟩, _, rfl⟩
theorem witness_UnwrittenWordsReadTheResetValue :
    (∃ t, Host.Core.run core 2 { State.reset with inputs := [encode (.write 0x2FE 9 0xF), encode (.write 0x22E 1 0xF)] } =
      .next t) ∧
    ∀ x ∈ [encode (.write 0x2FE 9 0xF), encode (.write 0x22E 1 0xF)], ∀ v m, x.decode ≠ .write 0x2FF v m := by
  refine ⟨⟨_, rfl⟩, ?_⟩
  intro x hx v m he
  rcases List.mem_cons.mp hx with rfl | hx
  · have hd : (encode (.write 0x2FE 9 0xF)).decode = .write 0x2FE 9 0xF := by decide
    rw [hd] at he
    injection he with hi
    exact absurd hi (by decide)
  · have hd : (encode (.write 0x22E 1 0xF)).decode = .write 0x22E 1 0xF := by decide
    rw [List.mem_singleton.mp hx, hd] at he
    injection he with hi
    exact absurd hi (by decide)
theorem witness_StepKeepsTheCanonicalForm :
    (sample [(0x22E, 5)] [.write 0x22E 0 0xF]).wf ∧ ∃ t, step (sample [(0x22E, 5)] [.write 0x22E 0 0xF]) = .next t :=
  ⟨by decide, _, rfl⟩
theorem witness_EqualWordsMeanEqualStores : Store.wf [(0x001, 5), (0x2FF, 7)] := by decide
theorem witness_ForwardedEventsStay : ∃ t, step (sample [] [.write 0x22F 1 0xF]) = .next t := ⟨_, rfl⟩
theorem witness_OnlyWriteOrResetChangesAWord : ∃ t, step (sample [] [.write 0x2FF 1 0xF]) = .next t ∧
    t.regs.read 0x2FF ≠ (sample [] [.write 0x2FF 1 0xF]).regs.read 0x2FF :=
  ⟨_, rfl, by decide⟩
theorem witness_InterruptCannotBeSuppressed :
    (sample [(0x010, 9)] [.write 0x010 9 0]).inputs = [encode (.write 0x010 9 0)] ∧
    (encode (.write 0x010 9 0)).decode = .write 0x010 9 0 := by decide
theorem witness_UnreadWordDoesNotLeak :
    LooksAlikeOff 5 (sample [(5, 1)] [.write 0x22E 1 0xF, .read 6]) (sample [(5, 2)] [.write 0x22E 1 0xF, .read 6]) ∧
    Valid (sample [(5, 1)] [.write 0x22E 1 0xF, .read 6]).inputs ∧
    ∀ x ∈ (sample [(5, 1)] [.write 0x22E 1 0xF, .read 6]).inputs, x.decode ≠ .read 5 := by
  refine ⟨⟨fun i hi => ?_, .nil, rfl, rfl⟩, by decide, by decide⟩
  show Store.read [(5, 1)] i = Store.read [(5, 2)] i
  simp [Store.read, Store.word, Ne.symm hi]
theorem witness_ChannelDesignForwardsTheSame :
    (ChannelState.mk [] [] []).channel = [] ∧ State.reset.regs = (ChannelState.mk [] [] []).regs ∧
      State.reset.out = (ChannelState.mk [] [] []).out := ⟨rfl, rfl, rfl⟩

end Sys2Proof.Tests
end

section
/-! The decoder undoes the encoder (R91, R92, R103), and a step performs the oldest issued input (R6, R69). -/

namespace Sys2Proof

section PackedFields

variable (mask8 : BitVec 8) (index : BitVec 22) (value : Word)

@[simp] theorem decodeReq_packReq_read : decodeReq (packReq 0b00#2 mask8 index value) = .read index.toNat := by
  simp [decodeReq]

@[simp] theorem decodeReq_packReq_write :
    decodeReq (packReq 0b01#2 mask8 index value) = .write index.toNat value mask8.toNat := by
  simp [decodeReq]

@[simp] theorem decodeReq_packReq_name : decodeReq (packReq 0b10#2 mask8 index value) = .name index.toNat := by
  simp [decodeReq]

@[simp] theorem decodeReq_packReq_rsvd : decodeReq (packReq 0b11#2 mask8 index value) = .rsvd := by
  simp [decodeReq]

end PackedFields

/-- An operation that fits its fields comes back from its encoding. -/
theorem decode_encode {i : Instr} (h : i.WellFormed) : (encode i).decode = i := by
  cases i with
  | read index =>
    have hindex : IndexFits index := h
    simp only [encode, Input.decode, decodeReq_packReq_read, BitVec.toNat_ofNat, Nat.mod_eq_of_lt hindex]
  | write index value mask =>
    obtain ⟨hindex, hmask⟩ : IndexFits index ∧ MaskFits mask := h
    simp only [encode, Input.decode, decodeReq_packReq_write, BitVec.toNat_ofNat,
      Nat.mod_eq_of_lt hindex, Nat.mod_eq_of_lt hmask]
  | name index =>
    have hindex : IndexFits index := h
    simp only [encode, Input.decode, decodeReq_packReq_name, BitVec.toNat_ofNat, Nat.mod_eq_of_lt hindex]
  | rsvd => simp only [encode, Input.decode, decodeReq_packReq_rsvd]
  | reset => rfl

namespace Machine

theorem State.takeInput_of_inputs_cons {s : State} {x : Input} {rest : List Input} (h : s.inputs = x :: rest) :
    s.takeInput = some (x, { s with inputs := rest }) := by
  rw [State.takeInput, h]

theorem step_of_inputs_cons {s : State} {x : Input} {rest : List Input} (h : s.inputs = x :: rest) :
    step s = exec x.decode { s with inputs := rest } := by
  rw [step, State.takeInput_of_inputs_cons h]

/-- A presented input is performed on the state it was presented to. -/
theorem step_present (s : State) (x : Input) : step (s.present x) = exec x.decode s :=
  step_of_inputs_cons (State.present_inputs s x)

/-- Settles O34: the step takes the head of the issued inputs, and the encoding of a well-formed operation decodes to it. -/
theorem stepRunsTheDecodedRequest : Obligations.StepRunsTheDecodedRequest :=
  ⟨fun _ _ _ hinputs => step_of_inputs_cons hinputs,
    fun s _ hwf => by rw [step_present, decode_encode hwf]⟩

end Machine

end Sys2Proof
end

section
/-! The canonical form of the store and of the snapshots (log entry 11): every step keeps it, and it is one form only. -/

namespace Sys2Proof

theorem Instr.storeEffect_wf {st : Machine.Store} (h : st.wf) (i : Instr) : (i.storeEffect st).wf := by
  cases i with
  | read index => exact h
  | write index value mask => exact Machine.Store.writeMasked_wf h index value mask
  | name index => exact h
  | rsvd => exact h
  | reset => exact Machine.Store.image_wf

namespace Machine

/-- The one event an operation can forward carries the store it left, which is in canonical form as the old store was. -/
theorem effectOf_wf {s : State} (h : s.wf) (i : Instr) : (effectOf i s).wf := by
  obtain ⟨hregs, hout⟩ := h
  have hstore : (i.storeEffect s.regs).wf := i.storeEffect_wf hregs
  refine ⟨hstore, fun e he => ?_⟩
  rcases List.mem_append.mp he with hold | hnew
  · exact hout e hold
  · obtain ⟨k, _, rfl⟩ := Option.map_eq_some_iff.mp (Option.mem_toList.mp hnew)
    exact hstore

/-- A step that completes is idle, or has the effect of the oldest issued input on the state without it. -/
theorem step_eq_next_cases {s s' : State} (h : step s = .next s') :
    (s.inputs = [] ∧ s' = s) ∨
    ∃ x rest, s.inputs = x :: rest ∧ x.decode ≠ .rsvd ∧ s' = effectOf x.decode { s with inputs := rest } := by
  rcases step_cases s with ⟨hnone, hidle⟩ | ⟨x, rest, hx, ⟨_, hrefused⟩ | ⟨hvalid, hnext⟩⟩
  · exact .inl ⟨hnone, Host.Outcome.next.inj (h.symm.trans hidle)⟩
  · exact nomatch h.symm.trans hrefused
  · exact .inr ⟨x, rest, hx, hvalid, Host.Outcome.next.inj (h.symm.trans hnext)⟩

/-- Settles O41: a step is idle or the effect of one operation, and both keep the canonical form. -/
theorem stepKeepsTheCanonicalForm : Obligations.StepKeepsTheCanonicalForm := by
  intro s s' hwf hstep
  rcases step_eq_next_cases hstep with ⟨_, rfl⟩ | ⟨x, rest, _, _, rfl⟩
  · exact hwf
  · exact effectOf_wf (s := { s with inputs := rest }) hwf x.decode

theorem Store.nodup_of_wf {st : Store} (h : st.wf) : st.Nodup :=
  h.1.imp (fun hlt heq => Nat.ne_of_lt hlt (congrArg Prod.fst heq))

/-- Settles O42: canonical stores with the same words list the same pairs, and lists with strictly rising indices that
have the same members are equal. -/
theorem equalWordsMeanEqualStores : Obligations.EqualWordsMeanEqualStores := by
  intro a b ha hb hread
  have hword : ∀ i, i < Config.numRegs → a.word i = b.word i := fun i hi => by
    rw [← a.read_in_range hi, ← b.read_in_range hi, hread i hi]
  have hmem : ∀ c, c ∈ a ↔ c ∈ b := fun c =>
    ⟨Store.listed_of_same_words ha hb hword, Store.listed_of_same_words hb ha (fun i hi => (hword i hi).symm)⟩
  have hperm : a.Perm b :=
    (List.perm_ext_iff_of_nodup (Store.nodup_of_wf ha) (Store.nodup_of_wf hb)).mpr hmem
  exact hperm.eq_of_pairwise (fun c d _ _ hcd hdc => absurd hcd (Nat.lt_asymm hdc)) ha.1 hb.1

@[simp] theorem Store.read_image (i : Nat) : Store.image.read i = 0x00000000#32 := by
  by_cases hi : i < Config.numRegs
  · rw [Store.read_in_range _ hi, Store.word_image, Config.resetImage]
  · rw [Store.read_out_of_range _ hi, Config.oorRead]

/-- Settles O26: the store at creation is the reset image, and the three lists are empty. -/
theorem creationState : Obligations.CreationState :=
  ⟨Store.read_image, rfl, rfl, rfl, Store.image_wf, fun _ he => absurd he List.not_mem_nil⟩

end Machine

end Sys2Proof
end

section
/-! The trace and the answers only grow (R38, R195). -/

namespace Sys2Proof.Machine

/-- Settles O43: the effect of an operation appends the event it has, if any, and the answer it has, if any. -/
theorem forwardedEventsStay : Obligations.ForwardedEventsStay := by
  intro s s' hstep
  rcases step_eq_next_cases hstep with ⟨_, rfl⟩ | ⟨x, rest, _, _, rfl⟩
  · exact ⟨⟨[], by simp⟩, ⟨[], by simp⟩⟩
  · exact ⟨⟨_, rfl, Option.length_toList_le⟩, ⟨_, rfl, Option.length_toList_le⟩⟩

end Sys2Proof.Machine
end

section
/-! The store is an array: any words can be put into it, one after the other (R20). -/

namespace Sys2Proof.Machine

/-- The store made by writing `w 0` to `w (n - 1)` into the words below `n`, on the reset image. -/
def storeOfWords (w : Nat → Word) : Nat → Store
  | 0 => Store.image
  | n + 1 => (storeOfWords w n).set n (w n)

theorem read_storeOfWords (w : Nat → Word) {n i : Nat} (hn : n ≤ Config.numRegs) (hi : i < n) :
    (storeOfWords w n).read i = w i := by
  induction n with
  | zero => exact absurd hi (Nat.not_lt_zero i)
  | succ n ih =>
    rw [storeOfWords]
    by_cases hlast : i = n
    · rw [hlast, Store.read_set_self _ _ hn]
    · rw [Store.read_set_other _ _ hlast, ih (by omega) (by omega)]

/-- Settles O49: any assignment is stored by writing its words in order, and the laws of `Store.set` are the rest. -/
theorem storeIsAnArrayOfIndependentWords : Obligations.StoreIsAnArrayOfIndependentWords :=
  ⟨rfl,
    fun w => ⟨storeOfWords w 0x300, fun _ hi => read_storeOfWords w (Nat.le_refl _) hi⟩,
    fun st _ v hi => ⟨st.read_set_self v hi, fun _ hj => st.read_set_other v hj⟩,
    fun st _ v hi _ => by rw [st.set_out_of_range v (Nat.not_lt.mpr hi)]⟩

end Sys2Proof.Machine
end

section
/-! Isolation of one word (R20): no operation but a READ at `j` lets word `j` show anywhere else. -/

namespace Sys2Proof.Machine

/-- A masked write of another word depends on that word alone, and one of word `j` stays in word `j`. -/
theorem AgreeOff.storeEffect {j : Nat} {a b : Store} (h : AgreeOff j a b) (i : Instr) :
    AgreeOff j (i.storeEffect a) (i.storeEffect b) := by
  cases i with
  | read index => exact h
  | name index => exact h
  | rsvd => exact h
  | reset => exact fun _ _ => rfl
  | write index value mask =>
    intro k hk
    show (a.writeMasked index value mask).read k = (b.writeMasked index value mask).read k
    by_cases hother : k = index
    · subst hother
      by_cases hrange : k < Config.numRegs
      · rw [Store.read_writeMasked_self _ _ _ hrange, Store.read_writeMasked_self _ _ _ hrange, h k hk]
      · rw [Store.read_out_of_range _ hrange, Store.read_out_of_range _ hrange]
    · rw [Store.read_writeMasked_other _ _ _ hother, Store.read_writeMasked_other _ _ _ hother, h k hk]

theorem AgreeOff.answer_eq {j : Nat} {a b : Store} (h : AgreeOff j a b) {i : Instr} (hi : i ≠ .read j) :
    i.answer a = i.answer b := by
  cases i with
  | read index =>
    have hindex : index ≠ j := fun e => hi (e ▸ rfl)
    rw [Instr.answer, Instr.answer, h index hindex]
  | write index value mask => rfl
  | name index => rfl
  | rsvd => rfl
  | reset => rfl

/-- An event of the same kind, or none, with each of two stores that agree off `j` as the snapshot. -/
theorem AgreeOff.event {j : Nat} {a b : Store} (h : AgreeOff j a b) (o : Option EventKind) :
    EventsAgreeOff j (o.map (fun k => (⟨k, a⟩ : Event))).toList (o.map (fun k => (⟨k, b⟩ : Event))).toList := by
  cases o with
  | none => exact .nil
  | some k => exact .cons ⟨rfl, h⟩ .nil

theorem EventsAgreeOff.append {j : Nat} {a a' b b' : List Event} (h : EventsAgreeOff j a b)
    (h' : EventsAgreeOff j a' b') : EventsAgreeOff j (a ++ a') (b ++ b') :=
  List.rel_append h h'

theorem LooksAlikeOff.inputs_eq {j : Nat} {s t : State} (h : LooksAlikeOff j s t) : s.inputs = t.inputs := by
  obtain ⟨_, _, _, hinputs⟩ := h
  exact hinputs

theorem LooksAlikeOff.withInputs {j : Nat} {s t : State} (h : LooksAlikeOff j s t) (xs : List Input) :
    LooksAlikeOff j { s with inputs := xs } { t with inputs := xs } := by
  obtain ⟨hregs, hout, hresponses, _⟩ := h
  exact ⟨hregs, hout, hresponses, rfl⟩

theorem LooksAlikeOff.effect {j : Nat} {s t : State} (h : LooksAlikeOff j s t) {i : Instr} (hi : i ≠ .read j) :
    LooksAlikeOff j (effectOf i s) (effectOf i t) := by
  obtain ⟨hregs, hout, hresponses, hinputs⟩ := h
  have hstore := hregs.storeEffect i
  exact ⟨hstore, hout.append (hstore.event i.eventKind), congrArg₂ _ hresponses (by rw [hregs.answer_eq hi]), hinputs⟩

/-- A step with a valid input issued completes with the input's effect. -/
theorem step_of_valid_input {s : State} {x : Input} {rest : List Input} (h : s.inputs = x :: rest)
    (hx : x.decode ≠ .rsvd) : step s = .next (effectOf x.decode { s with inputs := rest }) :=
  (step_of_inputs_cons h).trans (exec_eq_effect hx _)

theorem run_succ_of_step {s s' : State} (h : step s = .next s') (n : Nat) :
    Host.Core.run core (n + 1) s = Host.Core.run core n s' := by
  have hcore : core.step s = .next s' := h
  simp only [Host.Core.run, hcore]

/-- Settles O46: by induction on the issued inputs, each of which keeps the two states alike off `j`. -/
theorem unreadWordDoesNotLeak : Obligations.UnreadWordDoesNotLeak := by
  intro j s t halike hvalid hunread
  generalize hs : s.inputs = xs at hvalid hunread ⊢
  induction xs generalizing s t with
  | nil =>
    have ht : t.inputs = [] := halike.inputs_eq ▸ hs
    exact ⟨s, t, rfl, by rw [ht]; rfl, halike⟩
  | cons x rest ih =>
    obtain ⟨hx, hrest⟩ := List.forall_mem_cons.mp hvalid
    obtain ⟨hxj, hrestj⟩ := List.forall_mem_cons.mp hunread
    have ht : t.inputs = x :: rest := halike.inputs_eq ▸ hs
    obtain ⟨s', t', hrun, hrun', halike'⟩ := ih _ _ ((halike.withInputs rest).effect hxj) rfl hrest hrestj
    refine ⟨s', t', ?_, ?_, halike'⟩
    · exact (run_succ_of_step (step_of_valid_input hs hx) _).trans hrun
    · rw [ht]
      exact (run_succ_of_step (step_of_valid_input ht hx) _).trans hrun'

end Sys2Proof.Machine
end

section
/-! The regions (R24): their bounds do not overlap and together are the indices in range. -/

namespace Sys2Proof.Machine

theorem Region.mem_all (r : Region) : r ∈ Region.all := by
  cases r <;> decide

theorem Region.last_lt (r : Region) : r.last < Config.numRegs := by
  cases r <;> decide

/-- Of two regions one ends before the other begins. -/
theorem Region.separate {r q : Region} (h : r ≠ q) : r.last < q.first ∨ q.last < r.first := by
  have table : ∀ r ∈ Region.all, ∀ q ∈ Region.all, r ≠ q → r.last < q.first ∨ q.last < r.first := by decide
  exact table r r.mem_all q q.mem_all h

/-- No word in range lies between two regions. -/
theorem Region.covers {i : Nat} (hi : i < Config.numRegs) : ∃ r : Region, r.first ≤ i ∧ i ≤ r.last := by
  by_contra hnone
  have skip : ∀ r : Region, r.first ≤ i → r.last < i := fun r hr =>
    Nat.lt_of_not_le (fun hl => hnone ⟨r, hr, hl⟩)
  have low : 0x03F < i := skip .low (Nat.zero_le i)
  have rasterizer : 0x07F < i := skip .rasterizer low
  have texturing : 0x0FF < i := skip .texturing rasterizer
  have framebuffer : 0x13F < i := skip .framebuffer texturing
  have lighting : 0x1FF < i := skip .lighting framebuffer
  have pipeline : 0x27F < i := skip .pipeline lighting
  have geometryShader : 0x2AF < i := skip .geometryShader pipeline
  have vertexShader : 0x2DF < i := skip .vertexShader geometryShader
  have high : 0x2FF < i := skip .high vertexShader
  exact absurd hi (Nat.not_lt.mpr high)

/-- The region of an index is the one in whose bounds it lies. -/
theorem regionOf_eq_some_iff {i : Nat} {r : Region} : regionOf i = some r ↔ r.first ≤ i ∧ i ≤ r.last := by
  have bounds : ∀ q, regionOf i = some q → q.first ≤ i ∧ i ≤ q.last := fun q hq => by
    simpa using List.find?_some hq
  refine ⟨bounds r, fun hr => ?_⟩
  have hfound : (regionOf i).isSome := List.find?_isSome.mpr ⟨r, r.mem_all, decide_eq_true hr⟩
  obtain ⟨q, hq⟩ := Option.isSome_iff_exists.mp hfound
  have hqb := bounds q hq
  by_cases h : q = r
  · rw [hq, h]
  · rcases Region.separate h with hlt | hlt <;> omega

/-- Settles O21: the bounds of the regions cover what is in range, and nothing else. -/
theorem regionsPartitionTheIndexSpace : Obligations.RegionsPartitionTheIndexSpace := by
  intro i
  simp only [regionOf_eq_some_iff]
  exact ⟨⟨Region.covers, fun ⟨r, _, hlast⟩ => Nat.lt_of_le_of_lt hlast r.last_lt⟩, fun _ hfirst hlast => ⟨hfirst, hlast⟩⟩

end Sys2Proof.Machine
end

section
/-! The history of a run (R69, R70): what is left of the inputs issued, and what those performed have made of the store, the
trace and the answers. -/

namespace Sys2Proof.Machine

theorem storeAfter_concat (st : Store) (is : List Instr) (i : Instr) :
    storeAfter st (is ++ [i]) = i.storeEffect (storeAfter st is) := by
  rw [storeAfter_append, storeAfter_cons, storeAfter_nil]

theorem eventsOf_concat (st : Store) (is : List Instr) (i : Instr) :
    eventsOf st (is ++ [i]) = eventsOf st is ++
      (i.eventKind.map (fun k => (⟨k, i.storeEffect (storeAfter st is)⟩ : Event))).toList := by
  rw [eventsOf_append, eventsOf_cons, eventsOf_nil, List.append_nil]

theorem answersOf_concat (st : Store) (is : List Instr) (i : Instr) :
    answersOf st (is ++ [i]) = answersOf st is ++ (i.answer (storeAfter st is)).toList := by
  rw [answersOf_append, answersOf_cons, answersOf_nil, List.append_nil]

theorem HistoryOf.refl (s : State) : HistoryOf s s :=
  ⟨[], rfl, rfl, (List.append_nil _).symm, (List.append_nil _).symm⟩

/-- A step is idle, or moves the oldest input left to the end of those performed. -/
theorem HistoryOf.step {s₀ s s' : State} (h : HistoryOf s₀ s) (hstep : step s = .next s') : HistoryOf s₀ s' := by
  rcases step_eq_next_cases hstep with ⟨_, rfl⟩ | ⟨x, rest, hx, _, rfl⟩
  · exact h
  · obtain ⟨done, hinputs, hregs, hout, hresponses⟩ := h
    have hdone : (done ++ [x]).map Input.decode = done.map Input.decode ++ [x.decode] := List.map_append
    refine ⟨done ++ [x], ?_, ?_, ?_, ?_⟩
    · rw [hinputs, hx, List.append_assoc, List.singleton_append]; rfl
    · rw [hdone, storeAfter_concat, ← hregs]; rfl
    · rw [hdone, eventsOf_concat, ← hregs, ← List.append_assoc, ← hout]; rfl
    · rw [hdone, answersOf_concat, ← hregs, ← List.append_assoc, ← hresponses]; rfl

/-- Settles O39: the history starts with nothing performed, and a step adds the input it takes to those performed. -/
theorem stepKeepsTheHistory : Obligations.StepKeepsTheHistory :=
  ⟨HistoryOf.refl, fun _ _ _ => HistoryOf.step⟩

/-- What holds now and is kept by every step holds after any number of steps. -/
theorem run_induction {P : State → Prop} (hkeeps : ∀ s s', P s → step s = .next s' → P s') {n : Nat} {s t : State}
    (hs : P s) (hrun : Host.Core.run core n s = .next t) : P t := by
  induction n generalizing s with
  | zero => exact Host.Outcome.next.inj hrun ▸ hs
  | succ n ih =>
    cases hstep : step s with
    | next s' => exact ih (hkeeps s s' hs hstep) ((run_succ_of_step hstep n).symm.trans hrun)
    | fault r => exact nomatch r
    | refused r =>
      have hcore : core.step s = .refused r := hstep
      simp only [Host.Core.run, hcore] at hrun
      exact nomatch hrun

/-- A run of as many steps as inputs, none of them the reserved selector, takes them all. -/
theorem run_takes_all_inputs {s : State} (hvalid : Valid s.inputs) :
    ∃ t, Host.Core.run core s.inputs.length s = .next t ∧ t.inputs = [] := by
  generalize hs : s.inputs = xs at hvalid ⊢
  induction xs generalizing s with
  | nil => exact ⟨s, rfl, hs⟩
  | cons x rest ih =>
    obtain ⟨hx, hrest⟩ := List.forall_mem_cons.mp hvalid
    obtain ⟨t, hrun, ht⟩ := ih (s := effectOf x.decode { s with inputs := rest }) rfl hrest
    exact ⟨t, (run_succ_of_step (step_of_valid_input hs hx) _).trans hrun, ht⟩

/-- Settles O36: the run takes all inputs, and by its history what it performed is then all that was issued. -/
theorem runPerformsRequestsInOrder : Obligations.RunPerformsRequestsInOrder := by
  intro s hvalid
  obtain ⟨t, hrun, ht⟩ := run_takes_all_inputs hvalid
  obtain ⟨done, hinputs, hregs, hout, hresponses⟩ :=
    run_induction (P := HistoryOf s) (fun _ _ => HistoryOf.step) (HistoryOf.refl s) hrun
  have hall : s.inputs = done := by rw [hinputs, ht, List.append_nil]
  subst hall
  exact ⟨t, hrun, ht, hregs, hout, hresponses⟩

end Sys2Proof.Machine
end

section
/-! Which operations change which word, and which lane of it (R125, R128). -/

namespace Sys2Proof.Machine

/-- An operation that changes word `j` is RESET or a WRITE at `j`, and `j` is in range. -/
theorem changes_word_cases {i : Instr} {st : Store} {j : Nat} (h : (i.storeEffect st).read j ≠ st.read j) :
    j < Config.numRegs ∧ (i = .reset ∨ ∃ v m, i = .write j v m) := by
  have hrange : j < Config.numRegs := by
    by_contra hout
    rw [Store.read_out_of_range _ hout, Store.read_out_of_range _ hout] at h
    exact h rfl
  refine ⟨hrange, ?_⟩
  cases i with
  | read index => exact absurd rfl h
  | name index => exact absurd rfl h
  | rsvd => exact absurd rfl h
  | reset => exact .inl rfl
  | write index value mask =>
    by_cases hj : j = index
    · exact .inr ⟨value, mask, hj ▸ rfl⟩
    · exact absurd (st.read_writeMasked_other value mask hj) h

/-- Settles O44: a step that changes a word is not idle, so it is the effect of the input it takes. -/
theorem onlyWriteOrResetChangesAWord : Obligations.OnlyWriteOrResetChangesAWord := by
  intro s s' j hstep hchanged
  rcases step_eq_next_cases hstep with ⟨_, rfl⟩ | ⟨x, rest, hx, _, rfl⟩
  · exact absurd rfl hchanged
  · obtain ⟨hrange, hcases⟩ := changes_word_cases hchanged
    exact ⟨hrange, x, hx, hcases⟩

/-- Word `j` reads the reset value, now and in every snapshot handed out, and no input issued is a WRITE at it. -/
def NeverWritten (j : Nat) (s : State) : Prop :=
  (∀ x ∈ s.inputs, ∀ v m, x.decode ≠ .write j v m) ∧
  s.regs.read j = 0x00000000#32 ∧ ∀ e ∈ s.out, e.snap.read j = 0x00000000#32

/-- An operation that is no WRITE at `j` leaves the reset value there: it keeps the word, or it is RESET. -/
theorem read_storeEffect_of_not_write {i : Instr} {st : Store} {j : Nat} (hi : ∀ v m, i ≠ .write j v m)
    (hread : st.read j = 0x00000000#32) : (i.storeEffect st).read j = 0x00000000#32 := by
  by_cases hkept : (i.storeEffect st).read j = st.read j
  · exact hkept.trans hread
  · obtain ⟨_, rfl | ⟨v, m, hwrite⟩⟩ := changes_word_cases hkept
    · exact Store.read_image j
    · exact absurd hwrite (hi v m)

theorem NeverWritten.step {j : Nat} {s s' : State} (h : NeverWritten j s) (hstep : step s = .next s') :
    NeverWritten j s' := by
  rcases step_eq_next_cases hstep with ⟨_, rfl⟩ | ⟨x, rest, hx, _, rfl⟩
  · exact h
  · obtain ⟨hinputs, hregs, hout⟩ := h
    rw [hx] at hinputs
    obtain ⟨hnow, hrest⟩ := List.forall_mem_cons.mp hinputs
    have hread : (x.decode.storeEffect s.regs).read j = 0x00000000#32 := read_storeEffect_of_not_write hnow hregs
    refine ⟨hrest, hread, fun e he => ?_⟩
    rcases List.mem_append.mp he with hold | hnew
    · exact hout e hold
    · obtain ⟨k, _, rfl⟩ := Option.map_eq_some_iff.mp (Option.mem_toList.mp hnew)
      exact hread

/-- Settles O40: at creation the word reads its reset value and there is no snapshot, and every step keeps that. -/
theorem unwrittenWordsReadTheResetValue : Obligations.UnwrittenWordsReadTheResetValue := by
  intro xs n t j hrun hxs
  have hcreation : NeverWritten j { State.reset with inputs := xs } :=
    ⟨hxs, Store.read_image j, fun _ he => absurd he List.not_mem_nil⟩
  obtain ⟨_, hread, hsnaps⟩ := run_induction (fun _ _ => NeverWritten.step) hcreation hrun
  exact ⟨hread, hsnaps⟩

/-- Under the expanded mask, mask bit `k` alone decides lane `k` (R125). -/
theorem lane_combine_expand (old v : Word) (m : Nat) {k : Nat} (hk : k < 4) :
    lane (combine old v (expand m)) k = if m.testBit k then lane v k else lane old k := by
  apply BitVec.eq_of_getLsbD_eq
  intro j hj
  have hlane : (8 * k + j) / 8 = k := by omega
  rw [lane_bit, combine_expand_bit old v m _ (by omega), hlane]
  by_cases hbit : m.testBit k = true
  · rw [if_pos hbit, if_pos hbit, lane_bit]
  · rw [if_neg hbit, if_neg hbit, lane_bit]

/-- What an operation leaves in lane `k` of word `j` is what it puts there, or else what was there. -/
theorem lane_read_storeEffect (i : Instr) (st : Store) {j k : Nat} (hj : j < Config.numRegs) (hk : k < 4) :
    lane ((i.storeEffect st).read j) k = (i.laneWritten j k).getD (lane (st.read j) k) := by
  cases i with
  | read index => rfl
  | name index => rfl
  | rsvd => rfl
  | reset =>
    show lane (Store.image.read j) k = lane (Config.resetImage j) k
    rw [Store.read_in_range _ hj, Store.word_image]
  | write index value mask =>
    show lane ((st.writeMasked index value mask).read j) k = _
    rw [Instr.laneWritten]
    by_cases hindex : index = j
    · subst hindex
      rw [Store.read_writeMasked_self _ _ _ hj, lane_combine_expand _ _ _ hk]
      by_cases hbit : mask.testBit k = true
      · rw [if_pos hbit, if_pos ⟨rfl, hbit⟩, Option.getD_some]
      · rw [if_neg hbit, if_neg (fun h => hbit h.2), Option.getD_none]
    · rw [Store.read_writeMasked_other _ _ _ (Ne.symm hindex), if_neg (fun h => hindex h.1), Option.getD_none]

/-- The latest write after a first operation: that operation's own where nothing later writes the lane. -/
theorem latestLane_cons (j k : Nat) (old : Byte) (i : Instr) (is : List Instr) :
    latestLane j k old (i :: is) = latestLane j k ((i.laneWritten j k).getD old) is := by
  rw [latestLane, latestLane, List.reverse_cons, List.findSome?_append, List.findSome?_singleton]
  cases is.reverse.findSome? (Instr.laneWritten j k) with
  | none => rfl
  | some b => rfl

/-- After any operations in order, lane `k` of word `j` is the latest written to it. -/
theorem lane_read_storeAfter (st : Store) (is : List Instr) {j k : Nat} (hj : j < Config.numRegs) (hk : k < 4) :
    lane ((storeAfter st is).read j) k = latestLane j k (lane (st.read j) k) is := by
  induction is generalizing st with
  | nil => rfl
  | cons i is ih => rw [storeAfter_cons, ih, lane_read_storeEffect i st hj hk, latestLane_cons]

/-- Settles O37: the run answers the last READ from the store after all inputs before it, and each lane of a word there is
the latest written. -/
theorem readReturnsTheLatestWrite : Obligations.ReadReturnsTheLatestWrite := by
  intro s w before j hinputs hbefore hread hj
  have hvalid : Valid s.inputs := by
    rw [hinputs]
    refine List.forall_mem_append.mpr ⟨hbefore, List.forall_mem_singleton.mpr ?_⟩
    show decodeReq w ≠ .rsvd
    exact hread ▸ nofun
  obtain ⟨t, hrun, _, _, _, hresponses⟩ := runPerformsRequestsInOrder s hvalid
  have hops : s.inputs.map Input.decode = before.map Input.decode ++ [.read j] := by
    rw [hinputs, List.map_append, ← hread]; rfl
  refine ⟨t, (storeAfter s.regs (before.map Input.decode)).read j, hrun, ?_,
    fun k hk => lane_read_storeAfter s.regs (before.map Input.decode) hj hk⟩
  rw [hresponses, hops, answersOf_concat, ← List.append_assoc]
  exact List.getLast?_concat

end Sys2Proof.Machine
end

section
/-! WRITE and the byte view (R62, R64): which bytes an access touches, lane by lane, and what stays out of range (R67). -/

namespace Sys2Proof.Machine

/-- Byte `4 * i + k` of the view is lane `k` of word `i` (R62). -/
theorem Store.byte_of_lane (st : Store) {i k : Nat} (hi : i < Config.numRegs) (hk : k < 4) :
    st.byte (4 * i + k) = some (lane (st.word i) k) := by
  have hword : (4 * i + k) / 4 = i := by omega
  have hlane : (4 * i + k) % 4 = k := by omega
  have hrange : 4 * i + k < Config.numRegs * 4 := by omega
  rw [Store.byte, if_pos hrange, hword, hlane]

theorem Store.memRead_succ {st : Store} {a n rest : Nat} {b : Byte} (hb : st.byte a = some b)
    (hrest : st.memRead (a + 1) n = some rest) : st.memRead a (n + 1) = some (b.toNat + 2 ^ 8 * rest) := by
  rw [Store.memRead, hb, hrest]

/-- The byte at the lowest address is least significant. -/
theorem toNat_eq_lanes (w : Word) : w.toNat =
    (lane w 0).toNat + 2 ^ 8 * ((lane w 1).toNat + 2 ^ 8 * ((lane w 2).toNat + 2 ^ 8 * ((lane w 3).toNat + 2 ^ 8 * 0))) := by
  simp only [← ofNat_byte_eq_lane, BitVec.toNat_ofNat]
  have := w.isLt
  omega

/-- Settles O24: the bytes of a word are its lanes, and a word is the sum of its lanes in ascending significance. -/
theorem byteViewIsLittleEndian : Obligations.ByteViewIsLittleEndian := by
  intro st i
  refine ⟨fun hi => ?_, fun a ha => if_neg (Nat.not_lt.mpr ha), rfl⟩
  have hbyte : ∀ k, k < 4 → st.byte (4 * i + k) = some (lane (st.read i) k) := fun k hk => by
    rw [st.read_in_range hi, st.byte_of_lane hi hk]
  refine ⟨fun k hk => ?_, ?_⟩
  · rw [Store.memRead_succ (hbyte k hk) rfl, Nat.mul_zero, Nat.add_zero]
  · rw [toNat_eq_lanes]
    exact Store.memRead_succ (hbyte 0 (by decide)) (Store.memRead_succ (hbyte 1 (by decide))
      (Store.memRead_succ (hbyte 2 (by decide)) (Store.memRead_succ (hbyte 3 (by decide)) rfl)))

/-- A masked write in range changes the selected lanes of its own word and no other lane. -/
theorem Store.lane_writeMasked (st : Store) {i k : Nat} (v : Word) (m : Nat) (hi : i < Config.numRegs) (hk : k < 4) (j : Nat) :
    lane ((st.writeMasked i v m).word j) k = if j = i ∧ m.testBit k then lane v k else lane (st.word j) k := by
  by_cases hj : j = i
  · subst hj
    simp only [← Store.read_in_range _ hi, st.read_writeMasked_self v m hi, lane_combine_expand _ _ _ hk, true_and]
  · rw [if_neg (fun h => hj h.1), Store.writeMasked, Store.word_set_other _ _ hj]

/-- A byte outside the lanes that a masked write selects reads as before. -/
theorem Store.byte_writeMasked_other (st : Store) (i : Nat) (v : Word) (m : Nat) {a : Nat}
    (ha : ¬ ∃ k, k < 4 ∧ m.testBit k = true ∧ a = 4 * i + k) : (st.writeMasked i v m).byte a = st.byte a := by
  by_cases hi : i < Config.numRegs
  · have hk : a % 4 < 4 := Nat.mod_lt _ (by decide)
    have hunselected : ¬ (a / 4 = i ∧ m.testBit (a % 4) = true) := fun ⟨hword, hbit⟩ =>
      ha ⟨a % 4, hk, hbit, hword ▸ (Nat.div_add_mod a 4).symm⟩
    rw [Store.byte, Store.byte, st.lane_writeMasked v m hi hk, if_neg hunselected]
  · rw [st.writeMasked_out_of_range v m hi]

/-- WRITE completes with its effect. -/
theorem exec_write (index : Nat) (value : Word) (mask : Nat) (s : State) :
    exec (.write index value mask) s = .next (effectOf (.write index value mask) s) :=
  exec_eq_effect (i := .write index value mask) nofun s

@[simp] theorem effectOf_write_regs (index : Nat) (value : Word) (mask : Nat) (s : State) :
    (effectOf (.write index value mask) s).regs = s.regs.writeMasked index value mask := rfl

/-- Settles O6: the next state of a WRITE is its effect, whose store is one masked write. -/
theorem writeFrameInBytes : Obligations.WriteFrameInBytes := by
  intro index value mask s t hwrite
  obtain rfl : effectOf (.write index value mask) s = t :=
    Host.Outcome.next.inj ((exec_write index value mask s).symm.trans hwrite)
  refine ⟨fun a ha => s.regs.byte_writeMasked_other index value mask ha, fun hindex a => ?_, ?_, rfl, ?_⟩
  · rw [effectOf_write_regs, s.regs.writeMasked_out_of_range value mask hindex]
  · exact List.append_nil _
  · exact List.prefix_append _ _

/-- A byte write changes one lane of one word. -/
theorem Store.lane_setByte (st : Store) {i k l : Nat} (hi : i < Config.numRegs) (hk : k < 4) (hl : l < 4) (b : Byte) (j : Nat) :
    lane ((st.setByte (4 * i + k) b).word j) l = if j = i ∧ l = k then b else lane (st.word j) l := by
  rw [st.word_setByte hi hk b]
  by_cases hj : j = i
  · subst hj
    simp only [if_true, lane_setLane _ hk b hl, true_and]
  · rw [if_neg hj, if_neg (fun h => hj h.1)]

/-- A write of `n` bytes within word `i`, from lane `k` on, puts the bytes of `v` into those lanes and changes no other. -/
theorem Store.lane_memWrite (st : Store) {i k n l : Nat} (hi : i < Config.numRegs) (hn : k + n ≤ 4) (hl : l < 4) (v j : Nat) :
    lane ((st.memWrite (4 * i + k) n v).word j) l =
      if j = i ∧ k ≤ l ∧ l < k + n then BitVec.ofNat 8 (v / 2 ^ (8 * (l - k))) else lane (st.word j) l := by
  induction n generalizing st k v with
  | zero => rw [Store.memWrite, if_neg (by omega)]
  | succ n ih =>
    rw [Store.memWrite, Nat.add_assoc, ih _ (by omega), st.lane_setByte hi (by omega) hl]
    by_cases hfirst : j = i ∧ l = k
    · obtain ⟨rfl, rfl⟩ := hfirst
      rw [if_neg (by omega), if_pos ⟨rfl, rfl⟩, if_pos (by omega), Nat.sub_self, Nat.mul_zero, Nat.pow_zero, Nat.div_one]
    · rw [if_neg hfirst]
      by_cases hlater : j = i ∧ k + 1 ≤ l ∧ l < k + 1 + n
      · have hexp : 8 + 8 * (l - (k + 1)) = 8 * (l - k) := by omega
        rw [if_pos hlater, if_pos (by omega), Nat.div_div_eq_div_mul, ← Nat.pow_add, hexp]
      · rw [if_neg hlater, if_neg (by omega)]

/-- A four-byte write at a word puts the lanes of `v` into that word and changes no other. -/
theorem Store.lane_memWrite_word (st : Store) {i l : Nat} (v : Word) (hi : i < Config.numRegs) (hl : l < 4) (j : Nat) :
    lane ((st.memWrite (4 * i) 4 v.toNat).word j) l = if j = i then lane v l else lane (st.word j) l := by
  have hlanes := st.lane_memWrite (k := 0) (n := 4) hi (by decide) hl v.toNat j
  simpa only [Nat.add_zero, Nat.zero_add, Nat.zero_le, hl, and_true, Nat.sub_zero, ofNat_byte_eq_lane] using hlanes

/-- Settles O7: both writes leave the same lanes. -/
theorem writeIsAByteViewWrite : Obligations.WriteIsAByteViewWrite := by
  intro index value s hindex
  refine ⟨fun k hk => ⟨_, exec_write index value (2 ^ k) s, Store.byte_eq_of_lanes fun j l _ hl => ?_⟩,
    ⟨_, exec_write index value 0xF s, Store.byte_eq_of_lanes fun j l _ hl => ?_⟩⟩
  · rw [effectOf_write_regs, Store.lane_writeMasked _ _ _ hindex hl, Store.lane_setByte _ hindex hk hl]
    simp only [Nat.testBit_two_pow, decide_eq_true_eq, eq_comm (a := k)]
    by_cases hlane : j = index ∧ l = k
    · rw [if_pos hlane, if_pos hlane, hlane.2]
    · rw [if_neg hlane, if_neg hlane]
  · have hbit : (0xF : Nat).testBit l = true := by
      revert l; decide
    rw [effectOf_write_regs, Store.lane_writeMasked _ _ _ hindex hl, Store.lane_memWrite_word _ _ hindex hl]
    simp only [hbit, and_true]

/-- Settles O13: an index out of range has no word to store into and reads as the sentinel, and 0x310 is one. -/
theorem outOfRangeIsDefined : Obligations.OutOfRangeIsDefined := by
  refine ⟨fun index value mask s hindex => ?_, fun value mask s => ?_⟩
  · have hout : ¬ index < Config.numRegs := Nat.not_lt.mpr hindex
    refine ⟨exec_write_out_of_range hout value mask s, _, exec_read index s, ?_, rfl, rfl⟩
    rw [s.regs.read_out_of_range hout, Config.oorRead]
  · exact ⟨s, exec_write_out_of_range (by decide) value mask s, rfl, rfl⟩

end Sys2Proof.Machine
end

section
/-! The producer/consumer design beside the synchronous one (R72): the synchronous block is ahead by what waits in the
channel. -/

namespace Sys2Proof.Machine

/-- The synchronous state `s` is what the state `c` of the other design becomes by performing all that waits in its channel. -/
def AheadOfChannel (c : ChannelState) (s : State) : Prop :=
  s.regs = storeAfter c.regs (c.channel.map Posted.toInstr) ∧
  s.out = c.out ++ eventsOf c.regs (c.channel.map Posted.toInstr)

theorem aheadOfChannel_of_channel_nil {c : ChannelState} {s : State} (h : c.channel = []) :
    AheadOfChannel c s ↔ s.regs = c.regs ∧ s.out = c.out := by
  rw [AheadOfChannel, h, List.map_nil, storeAfter_nil, eventsOf_nil, List.append_nil]

/-- Consuming a posted write forwards the event that the WRITE operation has: a trigger index is in range. -/
theorem Posted.events_eq (p : Posted) (after : Store) :
    p.events after = (p.toInstr.eventKind.map (fun k => (⟨k, after⟩ : Event))).toList := by
  show p.events after = ((kindOf p.index).map _).toList
  unfold Posted.events
  cases hkind : kindOf p.index with
  | none => rfl
  | some k => exact if_pos (kindOf_in_range hkind)

theorem ChannelState.move_consume_of_cons {c : ChannelState} {p : Posted} {rest : List Posted} (h : c.channel = p :: rest) :
    c.move .consume =
      { regs := p.toInstr.storeEffect c.regs, channel := rest, out := c.out ++ p.events (p.toInstr.storeEffect c.regs) } := by
  rw [ChannelState.move, h]; rfl

theorem AheadOfChannel.consume {c : ChannelState} {s : State} (h : AheadOfChannel c s) :
    AheadOfChannel (c.move .consume) s := by
  cases hchannel : c.channel with
  | nil =>
    have hidle : c.move .consume = c := by rw [ChannelState.move, hchannel]
    rwa [hidle]
  | cons p rest =>
    obtain ⟨hregs, hout⟩ := h
    rw [hchannel, List.map_cons] at hregs hout
    rw [ChannelState.move_consume_of_cons hchannel]
    refine ⟨hregs, ?_⟩
    rw [hout, eventsOf_cons, Posted.events_eq, List.append_assoc]

/-- Issuing a write posts it in one design and performs it in the other. -/
theorem AheadOfChannel.issue {c : ChannelState} {s : State} (h : AheadOfChannel c s) (p : Posted) :
    AheadOfChannel (c.move (.issue p)) (effectOf p.toInstr s) := by
  obtain ⟨hregs, hout⟩ := h
  have hmap : (c.channel ++ [p]).map Posted.toInstr = c.channel.map Posted.toInstr ++ [p.toInstr] := List.map_append
  refine ⟨?_, ?_⟩
  · show p.toInstr.storeEffect s.regs = storeAfter c.regs ((c.channel ++ [p]).map Posted.toInstr)
    rw [hmap, storeAfter_concat, ← hregs]
  · show s.out ++ _ = c.out ++ eventsOf c.regs ((c.channel ++ [p]).map Posted.toInstr)
    rw [hmap, eventsOf_concat, ← hregs, ← List.append_assoc, ← hout]

theorem performAll_cons_of_exec {i : Instr} {s t : State} (h : exec i s = .next t) (is : List Instr) :
    performAll (i :: is) s = performAll is t := by
  rw [performAll, h]

/-- Whatever the interleaving, performing the issued writes synchronously completes and stays ahead of the channel. -/
theorem AheadOfChannel.moves {c : ChannelState} {s : State} (h : AheadOfChannel c s) (ms : List ChannelMove) :
    ∃ t, performAll ((issued ms).map Posted.toInstr) s = .next t ∧ AheadOfChannel (c.moves ms) t := by
  induction ms generalizing c s with
  | nil => exact ⟨s, rfl, h⟩
  | cons m ms ih =>
    cases m with
    | consume => exact ih h.consume
    | issue p =>
      obtain ⟨t, hperform, hahead⟩ := ih (h.issue p)
      exact ⟨t, (performAll_cons_of_exec (exec_write p.index p.value p.mask s) _).trans hperform, hahead⟩

/-- Draining empties the channel and forwards nothing that the synchronous block has not. -/
theorem AheadOfChannel.drain {c : ChannelState} {s : State} (h : AheadOfChannel c s) :
    c.drain.channel = [] ∧ AheadOfChannel c.drain s := by
  generalize hchannel : c.channel = ps
  induction ps generalizing c with
  | nil =>
    have hdrained : c.drain = c := by rw [ChannelState.drain, hchannel]; rfl
    rw [hdrained]
    exact ⟨hchannel, h⟩
  | cons p rest ih =>
    have hrest : (c.move .consume).channel = rest := by rw [ChannelState.move_consume_of_cons hchannel]
    have hdrain : c.drain = (c.move .consume).drain := by
      rw [ChannelState.drain, ChannelState.drain, hchannel, hrest]; rfl
    rw [hdrain]
    exact ih h.consume hrest

/-- Settles O47: the synchronous block stays ahead by the channel, and once the channel is drained that is by nothing. -/
theorem channelDesignForwardsTheSame : Obligations.ChannelDesignForwardsTheSame := by
  intro ms c s hempty hregs hout
  obtain ⟨t, hperform, hahead⟩ := ((aheadOfChannel_of_channel_nil hempty).mpr ⟨hregs, hout⟩).moves ms
  obtain ⟨hdrained, hahead'⟩ := hahead.drain
  obtain ⟨hregs', hout'⟩ := (aheadOfChannel_of_channel_nil hdrained).mp hahead'
  exact ⟨t, hperform, hregs'.symm, hout'.symm, hdrained⟩

end Sys2Proof.Machine
end

section
/-! The request word and its fields (R91 to R100): what a word decodes to under each selector, and the packing as a number. -/

namespace Sys2Proof

section SelectedOperation

variable {w : Req}

theorem opField_cases (w : Req) :
    opField w = 0b00#2 ∨ opField w = 0b01#2 ∨ opField w = 0b10#2 ∨ opField w = 0b11#2 := by
  have table : ∀ op : BitVec 2, op = 0b00#2 ∨ op = 0b01#2 ∨ op = 0b10#2 ∨ op = 0b11#2 := by decide
  exact table (opField w)

theorem decodeReq_of_op_read (h : opField w = 0b00#2) : decodeReq w = .read (indexField w).toNat := by
  rw [decodeReq, h]; rfl

theorem decodeReq_of_op_write (h : opField w = 0b01#2) :
    decodeReq w = .write (indexField w).toNat (valueField w) (maskField w).toNat := by
  rw [decodeReq, h]; rfl

theorem decodeReq_of_op_name (h : opField w = 0b10#2) : decodeReq w = .name (indexField w).toNat := by
  rw [decodeReq, h]; rfl

theorem decodeReq_of_op_rsvd (h : opField w = 0b11#2) : decodeReq w = .rsvd := by
  rw [decodeReq, h]; rfl

/-- The decoder reads the selector and gives the operation that has it (R92). -/
theorem selector_decodeReq (w : Req) : (decodeReq w).selector = some (opField w) := by
  rcases opField_cases w with h | h | h | h
  · rw [decodeReq_of_op_read h, h, Instr.selector]
  · rw [decodeReq_of_op_write h, h, Instr.selector]
  · rw [decodeReq_of_op_name h, h, Instr.selector]
  · rw [decodeReq_of_op_rsvd h, h, Instr.selector]

theorem opField_eq_of_decodeReq_eq {w' : Req} (h : decodeReq w = decodeReq w') : opField w = opField w' := by
  have hselector := congrArg Instr.selector h
  rw [selector_decodeReq, selector_decodeReq] at hselector
  exact Option.some.inj hselector

theorem decodeReq_eq_rsvd_iff : decodeReq w = .rsvd ↔ opField w = 0b11#2 := by
  refine ⟨fun h => ?_, decodeReq_of_op_rsvd⟩
  have hselector := selector_decodeReq w
  rw [h, Instr.selector] at hselector
  exact (Option.some.inj hselector).symm

theorem verdictOf_eq_invalid_iff : verdictOf w = .invalid ↔ decodeReq w = .rsvd := by
  unfold verdictOf
  cases decodeReq w <;> simp

end SelectedOperation

/-- Settles O27: the fields that were packed are the fields that are read, and no operand of a well-formed operation loses a
bit to its field. -/
theorem decodeOfEncode : Obligations.DecodeOfEncode :=
  fun _ hwf => decode_encode hwf

/-- Settles O28: a WRITE carries all four fields, and a word is its four fields. -/
theorem encodeOfDecodedWrite : Obligations.EncodeOfDecodedWrite := by
  intro w hop
  have hwrite : opField w = 0b01#2 := hop
  rw [decodeReq_of_op_write hwrite, encode, BitVec.ofNat_toNat, BitVec.ofNat_toNat, BitVec.setWidth_eq, BitVec.setWidth_eq,
    ← hwrite, packReq_fields]

/-- The packing formula of R91. -/
theorem toNat_packReq (op : BitVec 2) (mask8 : BitVec 8) (index : BitVec 22) (value : Word) :
    (packReq op mask8 index value).toNat =
      (op.toNat <<< 62) ||| (mask8.toNat <<< 54) ||| (index.toNat <<< 32) ||| value.toNat := by
  simp only [packReq, BitVec.toNat_append, Nat.shiftLeft_or_distrib, ← Nat.shiftLeft_add]

/-- An operand that fits its field is carried whole. -/
theorem toNat_ofNat_of_fits {n width : Nat} (h : n < 2 ^ width) : (BitVec.ofNat width n).toNat = n := by
  rw [BitVec.toNat_ofNat, Nat.mod_eq_of_lt h]

/-- Settles O29: the packing formula, over operands that are what their fields hold. -/
theorem requestWordIsPacked : Obligations.RequestWordIsPacked := by
  intro i hwf w hw
  cases i with
  | read index =>
    have hindex : IndexFits index := hwf
    rw [← Input.request.inj hw, toNat_packReq, toNat_ofNat_of_fits hindex]
    rfl
  | write index value mask =>
    obtain ⟨hindex, hmask⟩ : IndexFits index ∧ MaskFits mask := hwf
    rw [← Input.request.inj hw, toNat_packReq, toNat_ofNat_of_fits hindex, toNat_ofNat_of_fits hmask]
    rfl
  | name index =>
    have hindex : IndexFits index := hwf
    rw [← Input.request.inj hw, toNat_packReq, toNat_ofNat_of_fits hindex]
    rfl
  | rsvd =>
    rw [← Input.request.inj hw, toNat_packReq]
    rfl
  | reset => exact nomatch hw

/-- Two words decode alike exactly when their selectors agree and so do the fields that the selected operation uses. -/
theorem decodeReq_eq_iff (w w' : Req) : decodeReq w = decodeReq w' ↔
    opField w = opField w' ∧ (opField w = 0b11#2 ∨ indexField w = indexField w') ∧
      (opField w ≠ 0b01#2 ∨ (maskField w = maskField w' ∧ valueField w = valueField w')) := by
  by_cases hop : opField w = opField w'
  · rcases opField_cases w with h | h | h | h
    · rw [decodeReq_of_op_read h, decodeReq_of_op_read (hop ▸ h)]
      simp [← hop, h, BitVec.toNat_inj]
    · rw [decodeReq_of_op_write h, decodeReq_of_op_write (hop ▸ h)]
      simp [← hop, h, BitVec.toNat_inj, and_comm]
    · rw [decodeReq_of_op_name h, decodeReq_of_op_name (hop ▸ h)]
      simp [← hop, h, BitVec.toNat_inj]
    · rw [decodeReq_of_op_rsvd h, decodeReq_of_op_rsvd (hop ▸ h)]
      simp [← hop, h]
  · exact ⟨fun h => absurd (opField_eq_of_decodeReq_eq h) hop, fun ⟨h, _⟩ => absurd h hop⟩

/-- Settles O30: the decoder reads the selector, and then the fields that its operation uses. -/
theorem ignoredFieldsAreExactlyThese : Obligations.IgnoredFieldsAreExactlyThese :=
  decodeReq_eq_iff

/-- Settles O31: the verdict is read from the decoded operation, and of the four selectors only 11 decodes to RSVD. -/
theorem reservedSelectorIsRefused : Obligations.ReservedSelectorIsRefused :=
  ⟨fun _ => verdictOf_eq_invalid_iff.trans decodeReq_eq_rsvd_iff, fun _ => decodeReq_eq_rsvd_iff, Machine.exec_rsvd⟩

/-- Settles O32: each word of the vectors is the packing of its four fields. -/
theorem wordsOfTheSpecDecode : Obligations.WordsOfTheSpecDecode :=
  ⟨decodeReq_packReq_write 0x01#8 0x041#22 0xAABBCCDD#32,
    decodeReq_packReq_write 0xF4#8 0x041#22 0x00000000#32,
    decodeReq_packReq_write 0xFF#8 0x3FFFFF#22 0xFFFFFFFF#32,
    decodeReq_packReq_write 0x0F#8 0x22E#22 0x00000001#32,
    decodeReq_packReq_read 0xFF#8 0x041#22 0xFFFFFFFF#32,
    decodeReq_packReq_read 0x00#8 0x300#22 0x00000000#32,
    decodeReq_packReq_name 0x00#8 0x22E#22 0x00000000#32,
    decodeReq_packReq_rsvd 0x00#8 0x000#22 0x00000000#32,
    rfl⟩

end Sys2Proof
end

section
/-! WRITE as the encodings and the notation use it: its mask is four bits (R93), and its full mask and its trigger indices are
what the pseudo-operations rest on (R102, R123, R150). -/

namespace Sys2Proof.Machine

/-- Settles O12: of its mask a WRITE uses the four low bits alone, and those in the store only. -/
theorem maskIsTruncatedToFourBits : Obligations.MaskIsTruncatedToFourBits := by
  intro i v m s
  show exec (.write i v m) s = exec (.write i v (maskNibble m)) s
  have hstore : (Instr.write i v (maskNibble m)).storeEffect s.regs = (Instr.write i v m).storeEffect s.regs :=
    s.regs.writeMasked_nibble i v m
  rw [exec_write, exec_write, effectOf, effectOf, hstore]
  rfl

/-- A full-mask write in range puts the value there. -/
theorem Store.read_writeMasked_full (st : Store) {i : Nat} (v : Word) (hi : i < Config.numRegs) :
    (st.writeMasked i v 0xF).read i = v := by
  rw [st.read_writeMasked_self v 0xF hi, combine_expand_all _ _ 0xF rfl]

/-- A WRITE at a trigger index forwards one event of its kind with the store it leaves (R150, R154). -/
theorem effectOf_write_trigger_out (k : EventKind) (v : Word) (m : Nat) (s : State) :
    (effectOf (.write k.triggerIndex v m) s).out = s.out ++ [⟨k, (effectOf (.write k.triggerIndex v m) s).regs⟩] := by
  have hkind : (Instr.write k.triggerIndex v m).eventKind = some k := kindOf_eq_some.mpr rfl
  rw [effectOf, hkind]
  rfl

/-- Settles O23: FIRE is a full-mask WRITE of 1 at a trigger index. -/
theorem writewAndFireExpand : Obligations.WritewAndFireExpand :=
  ⟨fun _ _ => rfl, fun k s => ⟨_, exec_write k.triggerIndex 0x00000001#32 0xF s,
    s.regs.read_writeMasked_full _ (triggerIndex_lt k), effectOf_write_trigger_out k _ 0xF s⟩⟩

/-- Settles O33: the reader is run on each line. -/
theorem textOfTheSpecReads : Obligations.TextOfTheSpecReads := by
  unfold Obligations.TextOfTheSpecReads
  decide

end Sys2Proof.Machine
end

section
/-! The data operations (R120, R121): the expansion table against its loop, and COMBINE bit by bit and lane by lane. -/

namespace Sys2Proof.Machine

theorem maskNibble_eq_mod (m : Nat) : maskNibble m = m % 16 := Nat.and_two_pow_sub_one_eq_mod m 4

/-- An expanded lane is all ones or all zeros, as its mask bit says (R120). -/
theorem lane_expand (m : Nat) {k : Nat} (hk : k < 4) : lane (expand m) k = if m.testBit k then 0xFF#8 else 0x00#8 := by
  have table : ∀ n, n < 16 → ∀ k, k < 4 → lane (expandTable.getD n 0) k = if n.testBit k then 0xFF#8 else 0x00#8 := by
    decide
  rw [expand, table _ (maskNibble_lt m) k hk, maskNibble_testBit m k hk]

/-- Settles O1: the loop sees the mask's nibble alone, and the table agrees with it in each of its 16 rows. -/
theorem expandIsTheMaskLoop : Obligations.ExpandIsTheMaskLoop := by
  intro m
  have table : ∀ n, n < 16 → expandTable.getD n 0 =
      (List.range 4).foldl (fun e k => if n.testBit k then e ||| (0xFF#32 <<< (8 * k)) else e) 0#32 := by
    decide
  refine ⟨table _ (maskNibble_lt m), fun k hk => lane_expand m hk, ?_⟩
  rw [← maskNibble_eq_mod, expand_nibble]

theorem combine_zeros (old v : Word) : combine old v 0x00000000#32 = old := by
  rw [combine, BitVec.and_zero, BitVec.or_zero]
  exact BitVec.and_allOnes

theorem combine_ones (old v : Word) : combine old v 0xFFFFFFFF#32 = v := by
  have hones : v &&& 0xFFFFFFFF#32 = v := BitVec.and_allOnes
  simp [combine, hones]

theorem combine_self (old e : Word) : combine old old e = old := by
  apply BitVec.eq_of_getLsbD_eq
  intro j _
  rw [combine_bit, ite_self]

/-- A second combination with the same word and mask changes nothing (R121). -/
theorem combine_idem (old v e : Word) : combine (combine old v e) v e = combine old v e := by
  apply BitVec.eq_of_getLsbD_eq
  intro j _
  rw [combine_bit (combine old v e), combine_bit]
  split <;> rfl

/-- No data crosses lanes: a lane of a combination depends on that lane of its operands alone (R121). -/
theorem lane_combine (old v e : Word) {k : Nat} (hk : k < 4) :
    lane (combine old v e) k = (lane old k &&& ~~~lane e k) ||| (lane v k &&& lane e k) := by
  apply BitVec.eq_of_getLsbD_eq
  intro j hj
  have hbit : 8 * k + j < 32 := by omega
  simp only [combine, lane_bit, BitVec.getLsbD_or, BitVec.getLsbD_and, BitVec.getLsbD_not, hj, hbit, decide_true,
    Bool.true_and]

/-- Settles O2: bit by bit a selection, and a mask lane of all ones or all zeros takes or keeps the whole lane. -/
theorem combineSelectsBitwise : Obligations.CombineSelectsBitwise := by
  refine ⟨fun old v e => ⟨rfl, fun j _ => combine_bit old v e j, combine_zeros old v, combine_ones old v,
    combine_self old e, combine_idem old v e⟩, fun old v e m he k hk => ?_, by decide⟩
  rw [lane_combine old v e hk, he k hk]
  have hones : ∀ b : Byte, b &&& 0xFF#8 = b := fun _ => BitVec.and_allOnes
  by_cases hbit : m.testBit k = true
  · simp [hbit, hones]
  · simp [hbit, hones]

/-- Settles O48: bit `j` of lane `k` stands under mask bit `k`. -/
theorem combineUnderExpandIsLanewise : Obligations.CombineUnderExpandIsLanewise :=
  fun old v m _ hk => lane_combine_expand old v m hk

end Sys2Proof.Machine
end

section
/-! READ and WRITE by index and by name (R122 to R125, R127): what one access does, and what the next one then finds. -/

namespace Sys2Proof.Machine

/-- Settles O3: the answer is the indexed read of the store. -/
theorem readAnswersAndChangesNothing : Obligations.ReadAnswersAndChangesNothing :=
  fun index s => ⟨s.regs.read index, exec_read index s, s.regs.read_in_range, s.regs.read_out_of_range⟩

theorem kindOf_eq_none {i : Nat} (h : ∀ k : EventKind, i ≠ k.triggerIndex) : kindOf i = none :=
  Option.eq_none_iff_forall_ne_some.mpr fun k hk => h k (kindOf_eq_some.mp hk)

section WriteEffect

variable (index : Nat) (value : Word) (mask : Nat) (s : State)

@[simp] theorem effectOf_write_responses : (effectOf (.write index value mask) s).responses = s.responses :=
  List.append_nil _

theorem effectOf_write_out_of_range (h : ¬ index < Config.numRegs) : effectOf (.write index value mask) s = s :=
  Host.Outcome.next.inj ((exec_write index value mask s).symm.trans (exec_write_out_of_range h value mask s))

/-- A WRITE at no trigger index forwards nothing (R157). -/
theorem effectOf_write_no_trigger_out (h : kindOf index = none) : (effectOf (.write index value mask) s).out = s.out := by
  rw [effectOf, Instr.eventKind, h]
  exact List.append_nil _

end WriteEffect

/-- Settles O4: the effect of a WRITE field by field, and its event for each trigger index. -/
theorem writeStoresThenDispatches : Obligations.WriteStoresThenDispatches := by
  intro index value mask s
  refine ⟨_, exec_write index value mask s, effectOf_write_responses index value mask s, rfl,
    fun j hj => s.regs.read_writeMasked_other value mask hj, s.regs.read_writeMasked_self value mask,
    effectOf_write_out_of_range index value mask s, ?_, ?_, ?_, ?_⟩
  · rintro rfl
    exact effectOf_write_trigger_out .irq value mask s
  · rintro rfl
    exact effectOf_write_trigger_out .draw value mask s
  · rintro rfl
    exact effectOf_write_trigger_out .drawIndexed value mask s
  · rintro ⟨hirq, hdraw, hdrawIndexed⟩
    refine effectOf_write_no_trigger_out index value mask s (kindOf_eq_none fun k => ?_)
    cases k with
    | irq => exact hirq
    | draw => exact hdraw
    | drawIndexed => exact hdrawIndexed

/-- The lanes of the word a masked write is at (R125). -/
theorem Store.lane_writeMasked_self (st : Store) {i k : Nat} (v : Word) (m : Nat) (hi : i < Config.numRegs) (hk : k < 4) :
    lane ((st.writeMasked i v m).word i) k = if m.testBit k then lane v k else lane (st.word i) k := by
  simp only [st.lane_writeMasked v m hi hk, true_and]

/-- Settles O5: the store a WRITE leaves is one masked write. -/
theorem writeEnablesLanesIndependently : Obligations.WriteEnablesLanesIndependently :=
  fun index value mask s hindex => ⟨_, exec_write index value mask s,
    fun _ hk => s.regs.lane_writeMasked_self value mask hindex hk⟩

/-- Two WRITEs in order leave the effect of the second on the effect of the first. -/
theorem performAll_write_write (i j : Nat) (v w : Word) (m n : Nat) (s : State) :
    performAll [.write i v m, .write j w n] s = .next (effectOf (.write j w n) (effectOf (.write i v m) s)) := by
  rw [performAll_cons_of_exec (exec_write i v m s), performAll_cons_of_exec (exec_write j w n _), performAll]

/-- A READ after a WRITE answers from the store the WRITE left. -/
theorem write_then_read_answers (i j : Nat) (v : Word) (m : Nat) (s : State) :
    ∃ t, performAll [.write i v m, .read j] s = .next t ∧
      t.responses = s.responses ++ [.rdata ((s.regs.writeMasked i v m).read j)] := by
  rw [performAll_cons_of_exec (exec_write i v m s), performAll_cons_of_exec (exec_read j _), performAll]
  exact ⟨_, rfl, by rw [effectOf_write_responses, effectOf_write_regs]⟩

/-- A READ after a full-mask WRITE in range answers the value written (R124). -/
theorem full_write_then_read_answers {i : Nat} (hi : i < Config.numRegs) (v : Word) (s : State) :
    ∃ t, performAll [.write i v 0xF, .read i] s = .next t ∧ t.responses = s.responses ++ [.rdata v] := by
  simpa only [s.regs.read_writeMasked_full v hi] using write_then_read_answers i i v 0xF s

/-- A masked write that selects no lane leaves its own word as it was (R124). -/
theorem Store.read_writeMasked_null (st : Store) (i : Nat) (v : Word) : (st.writeMasked i v 0).read i = st.read i := by
  by_cases hi : i < Config.numRegs
  · rw [st.read_writeMasked_self v 0 hi, combine_expand_none _ _ 0 rfl]
  · rw [st.writeMasked_out_of_range v 0 hi]

/-- Settles O8: READ answers from the store the WRITE left, which is the old word or the value. -/
theorem nullAndFullMaskWrites : Obligations.NullAndFullMaskWrites :=
  fun i v s => ⟨s.regs.read_writeMasked_null i v ▸ write_then_read_answers i i v 0 s,
    fun hi => full_write_then_read_answers hi v s⟩

/-- The same masked write again changes no word (R124). -/
theorem Store.read_writeMasked_again (st : Store) (i : Nat) (v : Word) (m j : Nat) :
    ((st.writeMasked i v m).writeMasked i v m).read j = (st.writeMasked i v m).read j := by
  by_cases hi : i < Config.numRegs
  · by_cases hj : j = i
    · rw [hj, Store.read_writeMasked_self _ v m hi, st.read_writeMasked_self v m hi, combine_idem]
    · rw [Store.read_writeMasked_other _ v m hj]
  · rw [Store.writeMasked_out_of_range _ v m hi]

/-- Settles O9: the store is idempotent under one masked write, and each of the two WRITEs forwards its own event. -/
theorem sameWriteTwiceStoresAsOnce : Obligations.SameWriteTwiceStoresAsOnce := by
  intro i v m s
  refine ⟨_, _, exec_write i v m s, performAll_write_write i i v v m m s, s.regs.read_writeMasked_again i v m,
    fun k hk => ?_⟩
  obtain rfl := kindOf_eq_some.mp hk
  refine ⟨_, _, ?_, fun j => (s.regs.read_writeMasked_again k.triggerIndex v m j).symm⟩
  rw [effectOf_write_trigger_out, effectOf_write_trigger_out, List.append_assoc]
  rfl

/-- Settles O10: the second write decides each lane it selects, and the first each lane of the rest it selects. -/
theorem laterWriteWinsPerLane : Obligations.LaterWriteWinsPerLane := by
  intro i v w m n s hi
  refine ⟨_, performAll_write_write i i v w m n s, fun k hk => ?_⟩
  rw [effectOf_write_regs, effectOf_write_regs, Store.lane_writeMasked_self _ w n hi hk,
    s.regs.lane_writeMasked_self v m hi hk]

/-- Masks that share none of the four lanes select no lane both. -/
theorem not_both_selected {m n k : Nat} (h : m &&& n &&& 0xF = 0) (hk : k < 4) :
    ¬ (m.testBit k = true ∧ n.testBit k = true) := by
  have hbit : (m &&& n).testBit k = false := by
    rw [← maskNibble_testBit _ k hk, maskNibble, h, Nat.zero_testBit]
  rw [← Bool.and_eq_true, ← Nat.testBit_and, hbit]
  exact Bool.false_ne_true

/-- Masked writes of disjoint lanes to one word leave the same words in either order (R124). -/
theorem Store.read_writeMasked_comm (st : Store) (i : Nat) (v w : Word) {m n : Nat} (h : m &&& n &&& 0xF = 0) (j : Nat) :
    ((st.writeMasked i v m).writeMasked i w n).read j = ((st.writeMasked i w n).writeMasked i v m).read j := by
  by_cases hi : i < Config.numRegs
  · by_cases hj : j = i
    · subst hj
      rw [Store.read_in_range _ hi, Store.read_in_range _ hi]
      refine word_eq_of_lanes fun k hk => ?_
      have hdisjoint := not_both_selected h hk
      simp only [Store.lane_writeMasked_self _ _ _ hi hk]
      by_cases hn : n.testBit k = true
      · rw [if_pos hn, if_neg (fun hm => hdisjoint ⟨hm, hn⟩), if_pos hn]
      · rw [if_neg hn, if_neg hn]
    · rw [Store.read_writeMasked_other _ w n hj, Store.read_writeMasked_other _ v m hj,
        Store.read_writeMasked_other _ v m hj, Store.read_writeMasked_other _ w n hj]
  · rw [Store.writeMasked_out_of_range _ w n hi, Store.writeMasked_out_of_range st w n hi]

/-- Settles O11: the stores are two masked writes of disjoint lanes in either order. -/
theorem disjointMasksCommuteOnTheStore : Obligations.DisjointMasksCommuteOnTheStore :=
  fun i v w m n s h => ⟨_, _, performAll_write_write i i v w m n s, performAll_write_write i i w v n m s,
    s.regs.read_writeMasked_comm i v w h⟩

theorem Field.offset_lt (f : Field) : f.offset < Config.numRegs := by
  cases f <;> decide

/-- Settles O22: a name is its offset, and the two names of word 0x0E0 have one offset. -/
theorem namedAndIndexedAccessAgree : Obligations.NamedAndIndexedAccessAgree :=
  ⟨fun _ _ _ _ => ⟨rfl, rfl⟩,
    fun f v s => ⟨full_write_then_read_answers f.offset_lt v s, full_write_then_read_answers f.offset_lt v s⟩,
    fun v s => full_write_then_read_answers (Field.offset_lt .fogMode) v s,
    fun v s => full_write_then_read_answers (Field.offset_lt .tevCombinerBufferInput) v s⟩

end Sys2Proof.Machine
end

section
/-! The triggers (R150 to R163): which operations forward an event, with which store, in which order, and to whom. -/

namespace Sys2Proof.Machine

/-- The operations that forward an event are the WRITEs at a trigger index (R150, R157 to R159). -/
theorem eventKind_eq_some_iff {i : Instr} {k : EventKind} :
    i.eventKind = some k ↔ ∃ v m, i = .write k.triggerIndex v m := by
  constructor
  · intro h
    cases i with
    | write index value mask => exact ⟨value, mask, kindOf_eq_some.mp h ▸ rfl⟩
    | read index => exact nomatch h
    | name index => exact nomatch h
    | rsvd => exact nomatch h
    | reset => exact nomatch h
  · rintro ⟨v, m, rfl⟩
    exact kindOf_eq_some.mpr rfl

/-- An operation that changes the trace is a WRITE at a trigger index. -/
theorem changes_out_cases {i : Instr} {s t : State} (hexec : exec i s = .next t) (hout : t.out ≠ s.out) :
    ∃ (k : EventKind) (v : Word) (m : Nat), i = .write k.triggerIndex v m := by
  have hi : i ≠ .rsvd := by
    rintro rfl
    exact nomatch hexec
  obtain rfl : effectOf i s = t := Host.Outcome.next.inj ((exec_eq_effect hi s).symm.trans hexec)
  cases hkind : i.eventKind with
  | some k => exact ⟨k, eventKind_eq_some_iff.mp hkind⟩
  | none =>
    refine absurd ?_ hout
    rw [effectOf, hkind]
    exact List.append_nil _

/-- Settles O14: the map is a constant, and the one operation that can forward an event is a WRITE at one of its indices. -/
theorem triggerMapIsComplete : Obligations.TriggerMapIsComplete := by
  refine ⟨rfl, rfl, rfl, rfl, rfl, rfl, rfl, rfl, rfl, rfl, rfl, rfl, fun i hirq hdraw hdrawIndexed => ?_,
    fun i s t hexec hout => ?_⟩
  · refine kindOf_eq_none fun k => ?_
    cases k with
    | irq => exact hirq
    | draw => exact hdraw
    | drawIndexed => exact hdrawIndexed
  · obtain ⟨k, v, m, rfl⟩ := changes_out_cases hexec hout
    cases k with
    | irq => exact ⟨v, m, .inl rfl⟩
    | draw => exact ⟨v, m, .inr (.inl rfl)⟩
    | drawIndexed => exact ⟨v, m, .inr (.inr rfl)⟩

/-- Settles O15: the effect of a WRITE at a trigger index, field by field; 0x230 and 0x231 are none. -/
theorem triggerWriteCarriesTheUpdatedStore : Obligations.TriggerWriteCarriesTheUpdatedStore := by
  intro k value mask s
  refine ⟨_, exec_write k.triggerIndex value mask s, effectOf_write_trigger_out k value mask s,
    s.regs.read_writeMasked_self value mask (triggerIndex_lt k), fun j hj => s.regs.read_writeMasked_other value mask hj,
    effectOf_write_responses k.triggerIndex value mask s, fun j hj => ⟨_, exec_write j value mask s, ?_⟩⟩
  have hkind : kindOf j = none := by
    rcases hj with rfl | rfl <;> rfl
  exact effectOf_write_no_trigger_out j value mask s hkind

/-- The kinds of the events of a list of operations are the kinds its operations forward, in their order (R156, R195). -/
theorem eventsOf_kinds (st : Store) (is : List Instr) : (eventsOf st is).map Event.kind = is.filterMap Instr.eventKind := by
  induction is generalizing st with
  | nil => rfl
  | cons i is ih =>
    rw [eventsOf_cons, List.map_append, ih]
    cases hkind : i.eventKind with
    | none => rw [List.filterMap_cons_none hkind]; rfl
    | some k => rw [List.filterMap_cons_some hkind]; rfl

/-- Inputs that all forward an event are valid: the reserved selector forwards none. -/
theorem valid_of_eventKinds {xs : List Input} {ks : List EventKind}
    (h : xs.map (fun x => x.decode.eventKind) = ks.map some) : Valid xs := by
  intro x hx hrsvd
  have hmem : x.decode.eventKind ∈ ks.map some := h ▸ List.mem_map_of_mem hx
  obtain ⟨k, _, hk⟩ := List.mem_map.mp hmem
  rw [hrsvd] at hk
  exact nomatch hk

/-- Settles O16: the run performs every input, and the kinds of its events are those of the inputs. -/
theorem oneEventPerTriggerWriteInOrder : Obligations.OneEventPerTriggerWriteInOrder := by
  intro s ks hks
  obtain ⟨t, hrun, hinputs, _, hout, _⟩ := runPerformsRequestsInOrder s (valid_of_eventKinds hks)
  have hnew : (s.inputs.map Input.decode).filterMap Instr.eventKind = ks := by
    calc (s.inputs.map Input.decode).filterMap Instr.eventKind
        = (s.inputs.map (fun x => x.decode.eventKind)).filterMap id := by
          rw [List.filterMap_map, List.filterMap_map]; rfl
      _ = (ks.map some).filterMap id := by rw [hks]
      _ = ks := by rw [List.filterMap_map]; exact List.filterMap_some
  have hkinds : t.out.map Event.kind = s.out.map Event.kind ++ ks := by
    rw [hout, List.map_append, eventsOf_kinds, hnew]
  have hcount : s.inputs.length = ks.length := by simpa using congrArg List.length hks
  have hlength : t.out.length = s.out.length + ks.length := by simpa using congrArg List.length hkinds
  exact ⟨t, hrun, hinputs, hkinds, hcount ▸ hlength⟩

/-- A trigger WRITE after two full-mask WRITEs elsewhere forwards the one event, with the store that all three leave. -/
theorem performAll_two_writes_then_trigger {i j : Nat} (hi : kindOf i = none) (hj : kindOf j = none) (k : EventKind)
    (v w x : Word) (mask : Nat) (s : State) :
    ∃ t, performAll [.write i v 0xF, .write j w 0xF, .write k.triggerIndex x mask] s = .next t ∧
      t.out = s.out ++ [⟨k, t.regs⟩] ∧
      t.regs = ((s.regs.writeMasked i v 0xF).writeMasked j w 0xF).writeMasked k.triggerIndex x mask := by
  refine ⟨effectOf (.write k.triggerIndex x mask) (effectOf (.write j w 0xF) (effectOf (.write i v 0xF) s)), ?_, ?_, rfl⟩
  · exact (performAll_cons_of_exec (exec_write i v 0xF s) _).trans
      (performAll_write_write j k.triggerIndex w x 0xF mask _)
  · rw [effectOf_write_trigger_out, effectOf_write_no_trigger_out j w 0xF _ hj,
      effectOf_write_no_trigger_out i v 0xF s hi]

/-- Settles O17: neither named word is a trigger, so the one event is the draw's; it carries the store with both writes in
it, and the later write goes to the store alone. -/
theorem drawObservesEarlierWritesOnly : Obligations.DrawObservesEarlierWritesOnly := by
  intro s n a x m mask
  obtain ⟨t, hperform, hout, hregs⟩ :=
    performAll_two_writes_then_trigger (i := 0x228) (j := 0x200) rfl rfl .draw n a x mask s
  refine ⟨t, _, ⟨.draw, t.regs⟩, hperform, hout, rfl, ?_, ?_, exec_write 0x228 m 0xF t,
    t.regs.read_writeMasked_full m (by decide), (effectOf_write_no_trigger_out 0x228 m 0xF t rfl).trans hout⟩
  · show t.regs.read 0x228 = n
    rw [hregs, Store.read_writeMasked_other _ _ _ (by decide), Store.read_writeMasked_other _ _ _ (by decide),
      s.regs.read_writeMasked_full n (by decide)]
  · show t.regs.read 0x200 = a
    rw [hregs, Store.read_writeMasked_other _ _ _ (by decide), Store.read_writeMasked_full _ a (by decide)]

/-- An event appended to the trace is handed to its receiver and to no other collaborator (R150, R160). -/
theorem deliveredTo_of_out_concat {s t : State} {e : Event} (h : t.out = s.out ++ [e]) (c : Collaborator) :
    t.deliveredTo c = s.deliveredTo c ++ if e.kind.receiver = c then [e] else [] := by
  rw [State.deliveredTo, h, List.filter_append, List.filter_singleton, Bool.cond_decide, State.deliveredTo]

/-- Settles O45: the step has the WRITE's effect, whose one event is of interrupt kind, whatever the store holds. -/
theorem interruptCannotBeSuppressed : Obligations.InterruptCannotBeSuppressed := by
  intro s x rest v m hinputs hwrite
  have hstep : step s = .next (effectOf (.write 0x010 v m) { s with inputs := rest }) := by
    rw [step_of_inputs_cons hinputs, hwrite, exec_write]
  have hdelivered := deliveredTo_of_out_concat (effectOf_write_trigger_out .irq v m { s with inputs := rest })
  exact ⟨_, _, hstep, hdelivered .interruptController, rfl, (hdelivered .commandProcessor).trans (List.append_nil _)⟩

end Sys2Proof.Machine
end

section
/-! The constant tables (R171, R172): the documented fields and where they lie, and the names NAME answers. -/

namespace Sys2Proof.Machine

theorem Field.mem_all (f : Field) : f ∈ Field.all := by
  cases f <;> decide

theorem Field.offset_in_region (f : Field) : f.region.first ≤ f.offset ∧ f.offset ≤ f.region.last := by
  cases f <;> decide

/-- Every field but fog_mode: of the two names of word 0x0E0, the one that NAME answers (R33, R171). -/
def Field.named : List Field := Field.all.erase .fogMode

theorem Field.mem_named {f : Field} (hf : f ≠ .fogMode) : f ∈ Field.named :=
  (List.mem_erase_of_ne hf).mpr f.mem_all

/-- The named fields stand in the order of their offsets. -/
theorem Field.named_offsets_rise : Field.named.Pairwise (fun f g => f.offset < g.offset) := by
  decide

theorem Field.named_offsets_nodup : (Field.named.map Field.offset).Nodup :=
  List.pairwise_map.mpr (Field.named_offsets_rise.imp Nat.ne_of_lt)

/-- But for fog_mode, no two fields have the same offset. -/
theorem Field.eq_of_offset_eq {f g : Field} (hf : f ≠ .fogMode) (hg : g ≠ .fogMode) (h : f.offset = g.offset) : f = g :=
  List.inj_on_of_nodup_map Field.named_offsets_nodup (Field.mem_named hf) (Field.mem_named hg) h

/-- Two fields at one offset are one field, or the two names of word 0x0E0 (R33). -/
theorem Field.offset_eq_cases {f g : Field} (h : f.offset = g.offset) :
    f = g ∨ (f = .tevCombinerBufferInput ∧ g = .fogMode) ∨ (f = .fogMode ∧ g = .tevCombinerBufferInput) := by
  by_cases hf : f = .fogMode
  · subst hf
    by_cases hg : g = .fogMode
    · exact .inl hg.symm
    · exact .inr (.inr ⟨rfl, Field.eq_of_offset_eq hg nofun h.symm⟩)
  · by_cases hg : g = .fogMode
    · subst hg
      exact .inr (.inl ⟨Field.eq_of_offset_eq hf nofun h, rfl⟩)
    · exact .inl (Field.eq_of_offset_eq hf hg h)

/-- Settles O20: the tables are constants; each field lies within the bounds of its region, and a field other than fog_mode is
known by its offset. -/
theorem layoutContractHolds : Obligations.LayoutContractHolds := by
  refine ⟨rfl, rfl, rfl, Field.mem_all, rfl, fun _ => ⟨rfl, rfl⟩, rfl, rfl, fun f => ?_, fun _ _ => Field.offset_eq_cases⟩
  obtain ⟨hfirst, hlast⟩ := f.offset_in_region
  exact ⟨f.offset_lt, hfirst, hlast, regionOf_eq_some_iff.mpr ⟨hfirst, hlast⟩⟩

/-- The name table stands in the order of its indices. -/
theorem nameTable_indices_rise : nameTable.Pairwise (fun e e' => e.1 < e'.1) := by
  decide

theorem nameTable_indices_nodup : (nameTable.map Prod.fst).Nodup :=
  List.pairwise_map.mpr (nameTable_indices_rise.imp Nat.ne_of_lt)

/-- An entry of the table is the name of its index: no other entry has that index. -/
theorem nameOf_of_mem {e : Nat × String} (he : e ∈ nameTable) : nameOf e.1 = e.2 := by
  have hsome : (nameTable.find? (fun d => d.1 = e.1)).isSome := List.find?_isSome.mpr ⟨e, he, decide_eq_true rfl⟩
  obtain ⟨d, hd⟩ := Option.isSome_iff_exists.mp hsome
  have hindex : d.1 = e.1 := by simpa using List.find?_some hd
  have hsame : d = e := List.inj_on_of_nodup_map nameTable_indices_nodup (List.mem_of_find?_eq_some hd) he hindex
  rw [nameOf, hd, hsame]

/-- An index that no entry has gives the placeholder. -/
theorem nameOf_of_unlisted {i : Nat} (h : ∀ e ∈ nameTable, e.1 ≠ i) : nameOf i = placeholder := by
  have hnone : nameTable.find? (fun e => e.1 = i) = none :=
    List.find?_eq_none.mpr fun e he => by simpa using h e he
  rw [nameOf, hnone]

/-- The table lists every field but fog_mode at its offset under its identifier. -/
theorem nameTable_lists_named : ∀ f ∈ Field.named, (f.offset, f.ident) ∈ nameTable := by
  decide

/-- The table has an entry for a documented field or a sub-block without fields, and for nothing else. -/
theorem nameTable_index_cases :
    ∀ e ∈ nameTable, (∃ f ∈ Field.named, f.offset = e.1) ∨ e.1 = 0x140 ∨ e.1 = 0x280 ∨ e.1 = 0x2B0 := by
  decide

theorem nameOf_offset {f : Field} (hf : f ≠ .fogMode) : nameOf f.offset = f.ident :=
  nameOf_of_mem (nameTable_lists_named f (Field.mem_named hf))

/-- Settles O19: an entry is the name of its index, and the entries are those of the fields and of the three sub-blocks. -/
theorem nameTableFollowsTheLayout : Obligations.NameTableFollowsTheLayout := by
  refine ⟨fun _ => nameOf_offset, nameOf_offset (f := .tevCombinerBufferInput) nofun,
    nameOf_of_mem (e := (0x140, "lighting")) (by decide), nameOf_of_mem (e := (0x280, "geometry_shader")) (by decide),
    nameOf_of_mem (e := (0x2B0, "vertex_shader")) (by decide),
    fun i hfield hlighting hgeometry hvertex => nameOf_of_unlisted fun e he hi => ?_, rfl⟩
  subst hi
  rcases nameTable_index_cases e he with ⟨f, _, hf⟩ | hbase | hbase | hbase
  · exact hfield f hf
  · exact hlighting hbase
  · exact hgeometry hbase
  · exact hvertex hbase

/-- Settles O18: the meaning of NAME appends the table's entry to the answers. -/
theorem nameIsAPureLookup : Obligations.NameIsAPureLookup :=
  exec_name

/-- Settles O25: RESET replaces the store by the reset image, in which every word reads as such, and no other field. -/
theorem resetRestoresTheImage : Obligations.ResetRestoresTheImage :=
  fun s => ⟨_, exec_reset s, Store.read_image, fun i hi => (Store.image.read_in_range hi).trans (Store.word_image i),
    rfl, rfl, rfl, exec_reset _⟩

end Sys2Proof.Machine
end

section
/-! What stops the machine (R98, R190): nothing faults, and only the reserved selector is refused. -/

namespace Sys2Proof.Machine

/-- An input decodes to the reserved operation exactly when it is a request whose selector is reserved: the sideband never
does (R98, R103). -/
theorem decode_eq_rsvd_iff {x : Input} : x.decode = .rsvd ↔ ∃ w, x = .request w ∧ opField w = 0b11#2 := by
  constructor
  · intro h
    cases x with
    | request w => exact ⟨w, rfl, decodeReq_eq_rsvd_iff.mp h⟩
    | rst => exact nomatch h
  · rintro ⟨w, rfl, hop⟩
    exact decodeReq_eq_rsvd_iff.mpr hop

/-- Settles O35: of the three things a step can do, it idles, it refuses the reserved selector, or it leaves the effect of the
oldest input, which waits no more. -/
theorem stepStopsOnlyOnTheReservedSelector : Obligations.StepStopsOnlyOnTheReservedSelector := by
  intro s
  rcases step_cases s with ⟨hinputs, hstep⟩ | ⟨x, rest, hinputs, ⟨hrsvd, hstep⟩ | ⟨hvalid, hstep⟩⟩
  · exact .inl ⟨s, hstep, .inl ⟨hinputs, rfl⟩⟩
  · obtain ⟨w, rfl, hop⟩ := decode_eq_rsvd_iff.mp hrsvd
    exact .inr ⟨hstep, w, rest, hinputs, hop⟩
  · exact .inl ⟨_, hstep, .inr ⟨x, hinputs, hvalid⟩⟩

/-- Only the reserved operation is refused: every other one leaves its effect. -/
theorem eq_rsvd_of_exec_refused {i : Instr} {s : State} {r : Refusal} (h : exec i s = .refused r) : i = .rsvd := by
  by_contra hi
  exact nomatch (exec_eq_effect hi s).symm.trans h

/-- Settles O50: there is no fault to raise, and every operation but the reserved one leaves its effect. -/
theorem everyOperationCompletesNormally : Obligations.EveryOperationCompletesNormally :=
  ⟨nofun, fun i s hi => ⟨effectOf i s, exec_eq_effect hi s⟩, fun _ _ _ => eq_rsvd_of_exec_refused⟩

end Sys2Proof.Machine
end

section
/-! Reading the store out (R230): a run of READs leaves it, forwards nothing, and answers its words in order. -/

namespace Sys2Proof.Machine

theorem storeAfter_reads (st : Store) (js : List Nat) : storeAfter st (js.map Instr.read) = st := by
  induction js with
  | nil => rfl
  | cons j js ih => exact ih

theorem eventsOf_reads (st : Store) (js : List Nat) : eventsOf st (js.map Instr.read) = [] := by
  induction js with
  | nil => rfl
  | cons j js ih => rw [List.map_cons, eventsOf_cons]; exact ih

theorem answersOf_reads (st : Store) (js : List Nat) :
    answersOf st (js.map Instr.read) = js.map (fun j => .rdata (st.read j)) := by
  induction js with
  | nil => rfl
  | cons j js ih => rw [List.map_cons, answersOf_cons, List.map_cons]; exact congrArg (_ :: ·) ih

/-- Encoded READs whose indices fit the field decode to READs of the same indices (R91, R92). -/
theorem decode_encoded_reads {js : List Nat} (h : ∀ j ∈ js, IndexFits j) :
    (js.map (fun j => encode (.read j))).map Input.decode = js.map Instr.read := by
  rw [List.map_map]
  exact List.map_congr_left (fun j hj => decode_encode (i := .read j) (h j hj))

/-- Inputs that all decode to READs are valid: a READ is not the reserved operation. -/
theorem valid_of_reads {xs : List Input} {js : List Nat} (h : xs.map Input.decode = js.map Instr.read) : Valid xs := by
  intro x hx hrsvd
  have hmem : x.decode ∈ js.map Instr.read := h ▸ List.mem_map_of_mem hx
  obtain ⟨j, _, hj⟩ := List.mem_map.mp hmem
  exact nomatch hj.trans hrsvd

/-- Settles O38: the operations of the run are READs, which leave store and trace and answer the words they name, and each
index of the sweep is in range. -/
theorem finalStoreIsWhatReadsAnswer : Obligations.FinalStoreIsWhatReadsAnswer := by
  intro s hinputs
  have hfits : ∀ j ∈ List.range Config.numRegs, IndexFits j := fun j hj =>
    (List.mem_range.mp hj).trans (by decide)
  have hops : s.inputs.map Input.decode = (List.range Config.numRegs).map Instr.read := by
    rw [hinputs, decode_encoded_reads hfits]
  obtain ⟨t, hrun, _, hregs, hout, hresponses⟩ := runPerformsRequestsInOrder s (valid_of_reads hops)
  rw [hops] at hregs hout hresponses
  rw [storeAfter_reads] at hregs
  rw [eventsOf_reads, List.append_nil] at hout
  rw [answersOf_reads] at hresponses
  have hwords : (List.range Config.numRegs).map (fun j => Response.rdata (s.regs.read j)) =
      (List.range Config.numRegs).map (fun j => .rdata (s.regs.word j)) :=
    List.map_congr_left (fun j hj => by rw [s.regs.read_in_range (List.mem_range.mp hj)])
  exact ⟨t, hrun, hregs, hout, hwords ▸ hresponses⟩

end Sys2Proof.Machine
end
